-- ==== Sys2Proof/Word.lean ====
section
/-! DEFINITION. The word types of the sergiss/chip-8 CORE (spec/00_scope.md rules R3 and R5): every value is an
unsigned number of a stated width. -/

namespace Sys2Proof

/-- An 8-bit value: the content of a memory cell, of a general register or of a timer (R11, R18, R40). -/
abbrev Byte := BitVec 8

/-- A 16-bit value: an instruction word, or the container of I, PC and a stack entry (R14, R15, R16, R60). -/
abbrev Word := BitVec 16

/-- The 4-bit index of a general register, field `x` or `y` of an instruction word (R61, R63). -/
abbrev Reg := BitVec 4

/-- The 4-bit literal `n` of a sprite draw (R61). -/
abbrev Nibble := BitVec 4

/-- The 12-bit literal address `nnn` (R61). -/
abbrev Addr := BitVec 12

end Sys2Proof
end

