-- ==== Sys2Proof/Syntax.lean ====
section
/-! DEFINITION. The instructions (spec/30_encoding.md rule R65, spec/opcode_table.json): one constructor per row of
the opcode table, in the table's order, and one more for the unmapped words outside family 0 (R66), to which R85 gives
the same rule as to SYS. -/

namespace Sys2Proof

/-- An instruction of the CORE. `x` and `y` are register indexes, `kk`, `n` and `nnn` literals (R61, R63). -/
inductive Instr where
  /-- `00E0` clear the screen (R170) -/
  | cls
  /-- `00EE` return from subroutine (R100) -/
  | ret
  /-- `1nnn` jump (R101) -/
  | jp (nnn : Addr)
  /-- `2nnn` call subroutine (R102) -/
  | call (nnn : Addr)
  /-- `3xkk` skip if Vx = kk (R103) -/
  | seVxKk (x : Reg) (kk : Byte)
  /-- `4xkk` skip if Vx differs from kk (R104) -/
  | sneVxKk (x : Reg) (kk : Byte)
  /-- `5xy0` skip if Vx = Vy (R105) -/
  | seVxVy (x y : Reg)
  /-- `6xkk` load literal (R121) -/
  | ldVxKk (x : Reg) (kk : Byte)
  /-- `7xkk` add literal (R122) -/
  | addVxKk (x : Reg) (kk : Byte)
  /-- `8xy0` copy register (R123) -/
  | ldVxVy (x y : Reg)
  /-- `8xy1` bitwise OR (R124) -/
  | orVxVy (x y : Reg)
  /-- `8xy2` bitwise AND (R125) -/
  | andVxVy (x y : Reg)
  /-- `8xy3` bitwise exclusive OR (R126) -/
  | xorVxVy (x y : Reg)
  /-- `8xy4` add with carry out (R127) -/
  | addVxVy (x y : Reg)
  /-- `8xy5` subtract Vy from Vx (R128) -/
  | subVxVy (x y : Reg)
  /-- `8xy6` logical shift right by one; `y` is read only when SHIFT_SOURCE is VY (R129) -/
  | shr (x y : Reg)
  /-- `8xy7` subtract Vx from Vy into Vx (R130) -/
  | subnVxVy (x y : Reg)
  /-- `8xyE` logical shift left by one; `y` as in `shr` (R131) -/
  | shl (x y : Reg)
  /-- `9xy0` skip if Vx differs from Vy (R106) -/
  | sneVxVy (x y : Reg)
  /-- `Annn` load the address register (R150) -/
  | ldI (nnn : Addr)
  /-- `Bnnn` jump to nnn plus V0 (R107) -/
  | jpV0 (nnn : Addr)
  /-- `Cxkk` random byte masked with a literal (R132) -/
  | rnd (x : Reg) (kk : Byte)
  /-- `Dxyn` draw a sprite of n rows (R171) -/
  | drw (x y : Reg) (n : Nibble)
  /-- `Ex9E` skip if the key named by Vx is pressed (R180) -/
  | skp (x : Reg)
  /-- `ExA1` skip if the key named by Vx is not pressed (R181) -/
  | sknp (x : Reg)
  /-- `Fx07` read the delay timer (R183) -/
  | ldVxDt (x : Reg)
  /-- `Fx0A` wait for a key (R182) -/
  | ldVxK (x : Reg)
  /-- `Fx15` set the delay timer (R184) -/
  | ldDtVx (x : Reg)
  /-- `Fx18` set the sound timer (R185) -/
  | ldStVx (x : Reg)
  /-- `Fx1E` add Vx to the address register (R151) -/
  | addIVx (x : Reg)
  /-- `Fx29` address of the font glyph of a digit (R152) -/
  | ldFVx (x : Reg)
  /-- `Fx33` store the three decimal digits of Vx (R153) -/
  | ldBVx (x : Reg)
  /-- `Fx55` store V0 to Vx, `LD [I], Vx` (R154) -/
  | ldMemVx (x : Reg)
  /-- `Fx65` load V0 to Vx, `LD Vx, [I]` (R155) -/
  | ldVxMem (x : Reg)
  /-- `0nnn` other than `00E0` and `00EE`: the unmapped no-op named SYS (R85) -/
  | sys (nnn : Addr)
  /-- Any unmapped word outside family 0, written `DW w`: a no-op as well (R66, R85) -/
  | unmapped (w : Word)
  deriving DecidableEq, Repr

end Sys2Proof
end

