-- ==== Sys2Proof/WellFormed.lean ====
section
/-! DEFINITION. Which terms of `Instr` are instructions of the hardware: the operand fields of R61 are bit vectors of
their width and so always in range; what is left to check is that the two no-op constructors hold only the words that
spec/30_encoding.md rule R66 lists as unmapped. -/

namespace Sys2Proof

/-- The sub-codes of family 8 that select an instruction (R64). -/
def family8SubCodes : List Nat := [0x0, 0x1, 0x2, 0x3, 0x4, 0x5, 0x6, 0x7, 0xE]

/-- The low bytes of family E that select an instruction (R64). -/
def familyESubCodes : List Nat := [0x9E, 0xA1]

/-- The low bytes of family F that select an instruction (R64). -/
def familyFSubCodes : List Nat := [0x07, 0x0A, 0x15, 0x18, 0x1E, 0x29, 0x33, 0x55, 0x65]

/-- The unmapped words, family by family, as the table of R66 lists them. -/
def isUnmappedWord (w : Word) : Bool :=
  match w.toNat / 0x1000 with
  | 0x0 => w.toNat != 0x00E0 && w.toNat != 0x00EE
  | 0x5 => w.toNat % 0x10 != 0
  | 0x8 => !family8SubCodes.contains (w.toNat % 0x10)
  | 0x9 => w.toNat % 0x10 != 0
  | 0xE => !familyESubCodes.contains (w.toNat % 0x100)
  | 0xF => !familyFSubCodes.contains (w.toNat % 0x100)
  | _ => false

/-- SYS holds any address but the two that spell CLS and RET (R65 row 35, R66 family 0). -/
def sysAddressOk (nnn : Addr) : Bool :=
  nnn.toNat != 0x0E0 && nnn.toNat != 0x0EE

/-- The other no-op constructor holds an unmapped word outside family 0, whose unmapped words are SYS. -/
def unmappedWordOk (w : Word) : Bool :=
  isUnmappedWord w && w.toNat / 0x1000 != 0x0

/-- An instruction term is well formed: every term is, but for the two no-op constructors. -/
def wellFormed (i : Instr) : Bool :=
  match i with
  | .sys nnn => sysAddressOk nnn
  | .unmapped w => unmappedWordOk w
  | .cls | .ret => true
  | .jp _ | .call _ | .ldI _ | .jpV0 _ => true
  | .seVxKk _ _ | .sneVxKk _ _ | .ldVxKk _ _ | .addVxKk _ _ | .rnd _ _ => true
  | .seVxVy _ _ | .sneVxVy _ _ | .ldVxVy _ _ | .orVxVy _ _ | .andVxVy _ _ | .xorVxVy _ _ => true
  | .addVxVy _ _ | .subVxVy _ _ | .shr _ _ | .subnVxVy _ _ | .shl _ _ => true
  | .drw _ _ _ => true
  | .skp _ | .sknp _ | .ldVxDt _ | .ldVxK _ | .ldDtVx _ | .ldStVx _ => true
  | .addIVx _ | .ldFVx _ | .ldBVx _ | .ldMemVx _ | .ldVxMem _ => true

/-- `wellFormed` as a proposition, for use in statements. -/
abbrev WellFormed (i : Instr) : Prop := wellFormed i = true

end Sys2Proof
end

