-- ==== Sys2Proof/Decode.lean ====
section
/-! DEFINITION. Decoding and encoding (spec/30_encoding.md rules R60 to R66). The decoder is the function `decode` of
R64, total on every 16-bit word; the encoder is written from the patterns of R65. The opcode map of R65 itself, with
its match and mask columns, is the list `opcodeTable`. -/

namespace Sys2Proof

/-! ### Fields of the instruction word (R61) -/

/-- `op`, bits 15:12: the family. -/
def fieldOp (w : Word) : BitVec 4 := w.extractLsb' 12 4

/-- `x`, bits 11:8. -/
def fieldX (w : Word) : Reg := w.extractLsb' 8 4

/-- `y`, bits 7:4. -/
def fieldY (w : Word) : Reg := w.extractLsb' 4 4

/-- `n`, bits 3:0. -/
def fieldN (w : Word) : Nibble := w.extractLsb' 0 4

/-- `kk`, bits 7:0. -/
def fieldKk (w : Word) : Byte := w.extractLsb' 0 8

/-- `nnn`, bits 11:0. -/
def fieldNnn (w : Word) : Addr := w.extractLsb' 0 12

/-! ### The decoder (R64) -/

/-- Family 0: the whole word is compared (decision D29). -/
def decodeFamily0 (w : Word) : Instr :=
  if w = 0x00E0#16 then .cls
  else if w = 0x00EE#16 then .ret
  else .sys (fieldNnn w)

/-- Family 8: dispatch on the low nibble. -/
def decodeFamily8 (w : Word) : Instr :=
  let x := fieldX w
  let y := fieldY w
  if fieldN w = 0x0#4 then .ldVxVy x y
  else if fieldN w = 0x1#4 then .orVxVy x y
  else if fieldN w = 0x2#4 then .andVxVy x y
  else if fieldN w = 0x3#4 then .xorVxVy x y
  else if fieldN w = 0x4#4 then .addVxVy x y
  else if fieldN w = 0x5#4 then .subVxVy x y
  else if fieldN w = 0x6#4 then .shr x y
  else if fieldN w = 0x7#4 then .subnVxVy x y
  else if fieldN w = 0xE#4 then .shl x y
  else .unmapped w

/-- Family E: dispatch on the low byte. -/
def decodeFamilyE (w : Word) : Instr :=
  let x := fieldX w
  if fieldKk w = 0x9E#8 then .skp x
  else if fieldKk w = 0xA1#8 then .sknp x
  else .unmapped w

/-- Family F: dispatch on the low byte. -/
def decodeFamilyF (w : Word) : Instr :=
  let x := fieldX w
  if fieldKk w = 0x07#8 then .ldVxDt x
  else if fieldKk w = 0x0A#8 then .ldVxK x
  else if fieldKk w = 0x15#8 then .ldDtVx x
  else if fieldKk w = 0x18#8 then .ldStVx x
  else if fieldKk w = 0x1E#8 then .addIVx x
  else if fieldKk w = 0x29#8 then .ldFVx x
  else if fieldKk w = 0x33#8 then .ldBVx x
  else if fieldKk w = 0x55#8 then .ldMemVx x
  else if fieldKk w = 0x65#8 then .ldVxMem x
  else .unmapped w

/-- The instruction a word spells: the function `decode` of R64, a match on the family. The numbers of the opcode map
are the spec's (R65), PRESUMED there from general knowledge (log entry 8). -/
def decodeWord (w : Word) : Instr :=
  match (fieldOp w).toNat with
  | 0x0 => decodeFamily0 w
  | 0x1 => .jp (fieldNnn w)
  | 0x2 => .call (fieldNnn w)
  | 0x3 => .seVxKk (fieldX w) (fieldKk w)
  | 0x4 => .sneVxKk (fieldX w) (fieldKk w)
  | 0x5 => if fieldN w = 0x0#4 then .seVxVy (fieldX w) (fieldY w) else .unmapped w
  | 0x6 => .ldVxKk (fieldX w) (fieldKk w)
  | 0x7 => .addVxKk (fieldX w) (fieldKk w)
  | 0x8 => decodeFamily8 w
  | 0x9 => if fieldN w = 0x0#4 then .sneVxVy (fieldX w) (fieldY w) else .unmapped w
  | 0xA => .ldI (fieldNnn w)
  | 0xB => .jpV0 (fieldNnn w)
  | 0xC => .rnd (fieldX w) (fieldKk w)
  | 0xD => .drw (fieldX w) (fieldY w) (fieldN w)
  | 0xE => decodeFamilyE w
  | _ => decodeFamilyF w

/-! ### Bytes (R44, R60) -/

/-- The big-endian word of two consecutive bytes: the byte at the lower address is bits 15:8 (R44). -/
def wordOfBytes (hi lo : Byte) : Word := hi ++ lo

/-- The byte of a word that stands at the lower address (R44). -/
def hiByte (w : Word) : Byte := w.extractLsb' 8 8

/-- The byte of a word that stands at the higher address (R44). -/
def loByte (w : Word) : Byte := w.extractLsb' 0 8

/-- Why a list of bytes holds no instruction. -/
inductive DecodeError where
  /-- Fewer than the two bytes every instruction has (R60). A fetch always supplies two, so no step meets it; safe. -/
  | truncated
  deriving DecidableEq, Repr

/-- Decode the first instruction of a list of bytes and return the bytes after it. Every two bytes decode (R64); a
shorter list is rejected by name. -/
def decodeBytes (bytes : List Byte) : Except DecodeError (Instr × List Byte) :=
  match bytes with
  | hi :: lo :: rest => .ok (decodeWord (wordOfBytes hi lo), rest)
  | [_] => .error .truncated
  | [] => .error .truncated

/-! ### The encoder (R62, R65) -/

/-- Format NNN. -/
def formatNnn (op : BitVec 4) (nnn : Addr) : Word := op ++ nnn

/-- Formats XKK and XSS: the low byte is a literal or a sub-code. -/
def formatXkk (op : BitVec 4) (x : Reg) (kk : Byte) : Word := op ++ (x ++ kk : BitVec 12)

/-- Format XYN: the low nibble is a literal or a sub-code. -/
def formatXyn (op : BitVec 4) (x y : Reg) (n : Nibble) : Word := op ++ (x ++ (y ++ n : BitVec 8) : BitVec 12)

/-- The word of an instruction, from the patterns of R65. -/
def encode (i : Instr) : Word :=
  match i with
  | .cls => 0x00E0#16
  | .ret => 0x00EE#16
  | .jp nnn => formatNnn 0x1#4 nnn
  | .call nnn => formatNnn 0x2#4 nnn
  | .seVxKk x kk => formatXkk 0x3#4 x kk
  | .sneVxKk x kk => formatXkk 0x4#4 x kk
  | .seVxVy x y => formatXyn 0x5#4 x y 0x0#4
  | .ldVxKk x kk => formatXkk 0x6#4 x kk
  | .addVxKk x kk => formatXkk 0x7#4 x kk
  | .ldVxVy x y => formatXyn 0x8#4 x y 0x0#4
  | .orVxVy x y => formatXyn 0x8#4 x y 0x1#4
  | .andVxVy x y => formatXyn 0x8#4 x y 0x2#4
  | .xorVxVy x y => formatXyn 0x8#4 x y 0x3#4
  | .addVxVy x y => formatXyn 0x8#4 x y 0x4#4
  | .subVxVy x y => formatXyn 0x8#4 x y 0x5#4
  | .shr x y => formatXyn 0x8#4 x y 0x6#4
  | .subnVxVy x y => formatXyn 0x8#4 x y 0x7#4
  | .shl x y => formatXyn 0x8#4 x y 0xE#4
  | .sneVxVy x y => formatXyn 0x9#4 x y 0x0#4
  | .ldI nnn => formatNnn 0xA#4 nnn
  | .jpV0 nnn => formatNnn 0xB#4 nnn
  | .rnd x kk => formatXkk 0xC#4 x kk
  | .drw x y n => formatXyn 0xD#4 x y n
  | .skp x => formatXkk 0xE#4 x 0x9E#8
  | .sknp x => formatXkk 0xE#4 x 0xA1#8
  | .ldVxDt x => formatXkk 0xF#4 x 0x07#8
  | .ldVxK x => formatXkk 0xF#4 x 0x0A#8
  | .ldDtVx x => formatXkk 0xF#4 x 0x15#8
  | .ldStVx x => formatXkk 0xF#4 x 0x18#8
  | .addIVx x => formatXkk 0xF#4 x 0x1E#8
  | .ldFVx x => formatXkk 0xF#4 x 0x29#8
  | .ldBVx x => formatXkk 0xF#4 x 0x33#8
  | .ldMemVx x => formatXkk 0xF#4 x 0x55#8
  | .ldVxMem x => formatXkk 0xF#4 x 0x65#8
  | .sys nnn => formatNnn 0x0#4 nnn
  | .unmapped w => w

/-- The bytes of an instruction in memory order, high byte first (R44, R70). -/
def encodeBytes (i : Instr) : List Byte :=
  [hiByte (encode i), loByte (encode i)]

/-! ### The opcode map (R65) -/

/-- One row of the table of R65: a word `w` selects the row iff `w & mask = pat` (the table's column "match"). -/
structure OpcodeRow where
  /-- the mnemonic, as spec/opcode_table.json spells it -/
  mnemonic : String
  /-- column "match" -/
  pat : Word
  /-- column "mask" -/
  mask : Word
  deriving DecidableEq, Repr

/-- A word selects a row (R65). -/
def OpcodeRow.selects (r : OpcodeRow) (w : Word) : Bool := w &&& r.mask == r.pat

/-- Rows 1 to 9 of R65. -/
def opcodeRows1 : List OpcodeRow :=
  [⟨"CLS", 0x00E0#16, 0xFFFF#16⟩, ⟨"RET", 0x00EE#16, 0xFFFF#16⟩, ⟨"JP_nnn", 0x1000#16, 0xF000#16⟩,
   ⟨"CALL_nnn", 0x2000#16, 0xF000#16⟩, ⟨"SE_Vx__kk", 0x3000#16, 0xF000#16⟩, ⟨"SNE_Vx__kk", 0x4000#16, 0xF000#16⟩,
   ⟨"SE_Vx__Vy", 0x5000#16, 0xF00F#16⟩, ⟨"LD_Vx__kk", 0x6000#16, 0xF000#16⟩, ⟨"ADD_Vx__kk", 0x7000#16, 0xF000#16⟩]

/-- Rows 10 to 19 of R65. -/
def opcodeRows2 : List OpcodeRow :=
  [⟨"LD_Vx__Vy", 0x8000#16, 0xF00F#16⟩, ⟨"OR_Vx__Vy", 0x8001#16, 0xF00F#16⟩, ⟨"AND_Vx__Vy", 0x8002#16, 0xF00F#16⟩,
   ⟨"XOR_Vx__Vy", 0x8003#16, 0xF00F#16⟩, ⟨"ADD_Vx__Vy", 0x8004#16, 0xF00F#16⟩, ⟨"SUB_Vx__Vy", 0x8005#16, 0xF00F#16⟩,
   ⟨"SHR_Vx", 0x8006#16, 0xF00F#16⟩, ⟨"SUBN_Vx__Vy", 0x8007#16, 0xF00F#16⟩, ⟨"SHL_Vx", 0x800E#16, 0xF00F#16⟩,
   ⟨"SNE_Vx__Vy", 0x9000#16, 0xF00F#16⟩]

/-- Rows 20 to 29 of R65. -/
def opcodeRows3 : List OpcodeRow :=
  [⟨"LD_I__nnn", 0xA000#16, 0xF000#16⟩, ⟨"JP_V0__nnn", 0xB000#16, 0xF000#16⟩, ⟨"RND_Vx__kk", 0xC000#16, 0xF000#16⟩,
   ⟨"DRW_Vx__Vy__n", 0xD000#16, 0xF000#16⟩, ⟨"SKP_Vx", 0xE09E#16, 0xF0FF#16⟩, ⟨"SKNP_Vx", 0xE0A1#16, 0xF0FF#16⟩,
   ⟨"LD_Vx__DT", 0xF007#16, 0xF0FF#16⟩, ⟨"LD_Vx__K", 0xF00A#16, 0xF0FF#16⟩, ⟨"LD_DT__Vx", 0xF015#16, 0xF0FF#16⟩,
   ⟨"LD_ST__Vx", 0xF018#16, 0xF0FF#16⟩]

/-- Rows 30 to 34 of R65. -/
def opcodeRows4 : List OpcodeRow :=
  [⟨"ADD_I__Vx", 0xF01E#16, 0xF0FF#16⟩, ⟨"LD_F__Vx", 0xF029#16, 0xF0FF#16⟩, ⟨"LD_B__Vx", 0xF033#16, 0xF0FF#16⟩,
   ⟨"LD__I___Vx", 0xF055#16, 0xF0FF#16⟩, ⟨"LD_Vx___I", 0xF065#16, 0xF0FF#16⟩]

/-- The 34 mapped rows of R65. Row 35, SYS, has match 0x0000 and mask 0xF000 and a lower priority: it is selected only
where none of these is. -/
def opcodeTable : List OpcodeRow := opcodeRows1 ++ opcodeRows2 ++ opcodeRows3 ++ opcodeRows4

/-- The table's mnemonic of an instruction; both no-op constructors are row 35 (R85). -/
def mnemonicOf (i : Instr) : String :=
  match i with
  | .cls => "CLS"
  | .ret => "RET"
  | .jp _ => "JP_nnn"
  | .call _ => "CALL_nnn"
  | .seVxKk _ _ => "SE_Vx__kk"
  | .sneVxKk _ _ => "SNE_Vx__kk"
  | .seVxVy _ _ => "SE_Vx__Vy"
  | .ldVxKk _ _ => "LD_Vx__kk"
  | .addVxKk _ _ => "ADD_Vx__kk"
  | .ldVxVy _ _ => "LD_Vx__Vy"
  | .orVxVy _ _ => "OR_Vx__Vy"
  | .andVxVy _ _ => "AND_Vx__Vy"
  | .xorVxVy _ _ => "XOR_Vx__Vy"
  | .addVxVy _ _ => "ADD_Vx__Vy"
  | .subVxVy _ _ => "SUB_Vx__Vy"
  | .shr _ _ => "SHR_Vx"
  | .subnVxVy _ _ => "SUBN_Vx__Vy"
  | .shl _ _ => "SHL_Vx"
  | .sneVxVy _ _ => "SNE_Vx__Vy"
  | .ldI _ => "LD_I__nnn"
  | .jpV0 _ => "JP_V0__nnn"
  | .rnd _ _ => "RND_Vx__kk"
  | .drw _ _ _ => "DRW_Vx__Vy__n"
  | .skp _ => "SKP_Vx"
  | .sknp _ => "SKNP_Vx"
  | .ldVxDt _ => "LD_Vx__DT"
  | .ldVxK _ => "LD_Vx__K"
  | .ldDtVx _ => "LD_DT__Vx"
  | .ldStVx _ => "LD_ST__Vx"
  | .addIVx _ => "ADD_I__Vx"
  | .ldFVx _ => "LD_F__Vx"
  | .ldBVx _ => "LD_B__Vx"
  | .ldMemVx _ => "LD__I___Vx"
  | .ldVxMem _ => "LD_Vx___I"
  | .sys _ => "SYS_nnn"
  | .unmapped _ => "SYS_nnn"

/-! ### A row of the opcode table as a number -/

/-- The word of a table row's bits: the row's low `nbits` bits, every bit above them zero. An instruction is one word,
so no bit above bit 15 belongs to it (R60). -/
def tableWord (nbits w : Nat) : Word := BitVec.ofNat 16 (w % 2 ^ nbits)

/-- The instruction the decoder reads from an instruction whose bits are `w`, numbered as spec/opcode_table.json
numbers them: the word is laid out in memory order, high byte first (R44), and decoded. -/
def decodeTableWord (nbits w : Nat) : Option Instr :=
  match decodeBytes [hiByte (tableWord nbits w), loByte (tableWord nbits w)] with
  | .ok (i, _) => some i
  | .error .truncated => none

end Sys2Proof
end

