-- ==== Sys2Proof/Config.lean ====
section
/-! DEFINITION. What the spec leaves to the implementation (spec/00_scope.md rule R4): the two switches of the
arithmetic instructions, the font table and the free random byte. The defaults stand in
`Sys2Proof/Machine/Defaults.lean`; the program image is an argument of Reset
(`Sys2Proof/Machine/HostOps.lean`). -/

namespace Sys2Proof

/-- The register SHR and SHL shift: Vx, or Vy (R129, decision D8; log entry 5). -/
inductive ShiftSource where
  /-- Vx is shifted in place and y is ignored: the default of R4. -/
  | vx
  /-- Vy is shifted into Vx. -/
  | vy
  deriving DecidableEq, Repr

/-- Which of the result and the flag is written last, so that it stays when the destination is VF
(R133, decision D9; log entry 6). -/
inductive VfOrder where
  /-- The flag is written last: the default of R4. -/
  | flagLast
  /-- The result is written last. -/
  | resultLast
  deriving DecidableEq, Repr

/-- The configuration of R4. It is fixed for a machine: no step and no host operation changes it, and every Reset
uses it. -/
structure Config where
  /-- SHIFT_SOURCE -/
  shiftSource : ShiftSource
  /-- VF_ORDER -/
  vfOrder : VfOrder
  /-- FONT[0..79], the bytes Reset puts at 0x050 to 0x09F (R42, R53, decision D17; log entry 2) -/
  font : Vector Byte 80
  deriving DecidableEq, Repr

/-- The random source (R132, decision D13): the byte supplied to the n-th RND of a run. A FREE VALUE under no law:
it has no body, so nothing can be proved of the byte (log entry 4, safe). -/
opaque Config.rnd : Nat → Byte

end Sys2Proof
end

