-- ==== Sys2Proof/Machine/Defaults.lean ====
section
/-! DEFINITION. The default configuration (spec/00_scope.md rule R4): the conventional font (spec/20_memory.md rule R53)
and the settings R4 names for the two switches. -/

namespace Sys2Proof.Machine

/-- Glyphs 0 to 7 of the default font (R53). PRESUMED: the spec takes the bytes from general knowledge (log entry 2). -/
def fontGlyphs0to7 : List Byte :=
  [0xF0, 0x90, 0x90, 0x90, 0xF0,  0x20, 0x60, 0x20, 0x20, 0x70,
   0xF0, 0x10, 0xF0, 0x80, 0xF0,  0xF0, 0x10, 0xF0, 0x10, 0xF0,
   0x90, 0x90, 0xF0, 0x10, 0x10,  0xF0, 0x80, 0xF0, 0x10, 0xF0,
   0xF0, 0x80, 0xF0, 0x90, 0xF0,  0xF0, 0x10, 0x20, 0x40, 0x40]

/-- Glyphs 8 to F of the default font (R53). -/
def fontGlyphs8toF : List Byte :=
  [0xF0, 0x90, 0xF0, 0x90, 0xF0,  0xF0, 0x90, 0xF0, 0x10, 0xF0,
   0xF0, 0x90, 0xF0, 0x90, 0x90,  0xE0, 0x90, 0xE0, 0x90, 0xE0,
   0xF0, 0x80, 0x80, 0x80, 0xF0,  0xE0, 0x90, 0x90, 0x90, 0xE0,
   0xF0, 0x80, 0xF0, 0x80, 0xF0,  0xF0, 0x80, 0xF0, 0x80, 0x80]

/-- The default table FONT[0..79] (R4, R53). -/
def fontTable : List Byte := fontGlyphs0to7 ++ fontGlyphs8toF

/-- The default table as a font of 80 bytes. -/
def defaultFont : Vector Byte 80 := ⟨⟨fontTable⟩, rfl⟩

/-- The defaults R4 names. DESIGN CHOICE for the switches, PRESUMED for the font; unsafe (log entries 2, 5 and 6). -/
def defaultConfig : Config :=
  { shiftSource := .vx, vfOrder := .flagLast, font := defaultFont }

end Sys2Proof.Machine
end

