-- ==== Sys2Proof/Machine/State.lean ====
section
/-! DEFINITION. The state of the CORE (spec/10_state.md rules R10 to R24): one aggregate of plain data, and its value
after reset (R29). Of the fields only `config` and `draws` are the model's own. -/

namespace Sys2Proof.Machine

/-- The faults of the hardware; there are no others (R200). They are NOT outcomes of a step: the spec describes fault
entry as a change of state (R203), so a faulting step answers a next state whose latch FAULT holds one of these, and no
step of this model ends in `Host.Outcome.fault`. -/
inductive Fault where
  /-- Code 1. Raised by CALL when sixteen return addresses are saved (R201, decisions D3 and D5). Exact for the spec;
  unsafe for the reference implementation, which goes on with undefined stack contents (log entry 7). -/
  | stackOverflow
  /-- Code 2. Raised by RET when no return address is saved (R202, decisions D4 and D5). Exact for the spec; unsafe for
  the reference implementation, as above (log entry 7). -/
  | stackUnderflow
  deriving DecidableEq, Repr

/-- Why `exec` gives an instruction no meaning. -/
inductive Refusal where
  /-- Raised by `exec` for an instruction that has no meaning yet, under its mnemonic. Safe. No arm of `exec` raises it:
  every instruction has its meaning. -/
  | notModelled (mnemonic : String)
  deriving DecidableEq, Repr

/-- The value of the latch FAULT when it is not `none`: a code, and the address of the faulting instruction (R23). -/
structure FaultRecord where
  /-- which fault -/
  code : Fault
  /-- pc0, the address of the CALL or RET that faulted (R200) -/
  pc : Word
  deriving DecidableEq, Repr

/-- Memory: the cells whose content differs from their reset content, addresses strictly rising (R40). `Memory.wf` in
Sys2Proof/Machine/Ops.lean states the form. -/
abbrev Memory := List Host.Cell

/-- The framebuffer FB[0..2047]: 32 rows of 64 one-bit pixels, row-major (R20). Pixel (col, row), which is
FB[row * 64 + col], is bit `col` of row `row`. -/
abbrev Framebuffer := Vector (BitVec 64) 32

/-- The framebuffer with every pixel off. -/
def Framebuffer.blank : Framebuffer := Vector.replicate 32 0

/-- The whole state of the hardware (R10). -/
structure State where
  /-- MEM[0..4095] (R40), as the list of cells that differ from their reset content -/
  mem : Memory
  /-- V[0..15], the general registers; V[15] is VF (R11, R12) -/
  v : Vector Byte 16
  /-- I, the address register: a 16-bit container of a 12-bit value (R14) -/
  i : Word
  /-- PC, the program counter: a 16-bit container of a 12-bit value (R15) -/
  pc : Word
  /-- S[0..15], the call stack (R16) -/
  stack : Vector Word 16
  /-- SP, the count of saved return addresses, 0 to 16 (R17) -/
  sp : Fin 17
  /-- DT, the delay timer (R18) -/
  dt : Byte
  /-- ST, the sound timer (R19) -/
  st : Byte
  /-- FB[0..2047], the framebuffer (R20) -/
  fb : Framebuffer
  /-- DIRTY (R21) -/
  dirty : Bool
  /-- K[0..15], the key latch, true for pressed (R22) -/
  keys : Vector Bool 16
  /-- FAULT, the fault latch (R23) -/
  fault : Option FaultRecord
  /-- The model's own: the configuration of R4, switches and font. No step and no host operation changes it. -/
  config : Config
  /-- The model's own: how many random bytes RND has taken so far, the index of the next free value `Config.rnd`. -/
  draws : Nat
  deriving DecidableEq, Repr

/-- The state after Reset with the empty image (R29, R230). V, I, S, DT, ST, FB, DIRTY and K are zero by the spec's
decision D7 (DESIGN CHOICE, log entry 1); `config` holds the defaults of R4 (log entries 2, 5 and 6). Memory lists nothing:
every cell reads as its reset content, the font included (R42). -/
def State.reset : State :=
  { mem := []
    v := Vector.replicate 16 0
    i := 0
    pc := 0x200
    stack := Vector.replicate 16 0
    sp := 0
    dt := 0
    st := 0
    fb := Framebuffer.blank
    dirty := false
    keys := Vector.replicate 16 false
    fault := none
    config := defaultConfig
    draws := 0 }

end Sys2Proof.Machine
end

