-- ==== Sys2Proof/Machine/Ops.lean ====
section
/-! DEFINITION. The named operations over memory, registers, stack, timers and framebuffer, and the shared frame of
every instruction: retiring it, or taking a fault (spec/00_scope.md rule R6, spec/20_memory.md, spec/40_step_cycle.md
and spec/60_exceptions.md). -/

namespace Sys2Proof.Machine

/-! ### The reset contents of memory (R42, R53) -/

/-- FONT_BASE and the end of the font region (R3). -/
def fontBase : Nat := 0x050

/-- FONT_SIZE (R3). -/
def fontSize : Nat := 80

/-- PROG_BASE (R3). -/
def progBase : Nat := 0x200

/-- PROG_MAX (R3, R232). -/
def progMax : Nat := 3584

/-- What a cell holds after Reset with the default font and the empty image, and so what an address the memory does not list reads as: a font
byte at 0x050 to 0x09F, zero elsewhere (R42). -/
def resetByte (a : Nat) : Byte :=
  if fontBase ≤ a ∧ a < fontBase + fontSize then fontTable.getD (a - fontBase) 0 else 0

/-! ### Memory (R40, R41) -/

/-- MEM_SIZE (R3). -/
def memSize : Nat := 4096

/-- The listed content of an address, if it is listed. -/
def Memory.lookup : Memory → Nat → Option Byte
  | [], _ => none
  | (k, c) :: m, a => if a = k then some c else Memory.lookup m a

/-- The content of a cell. -/
def Memory.read (m : Memory) (a : Nat) : Byte :=
  (Memory.lookup m a).getD (resetByte a)

/-- Unlist an address. -/
def Memory.erase : Memory → Nat → Memory
  | [], _ => []
  | (k, c) :: m, a => if a = k then Memory.erase m a else (k, c) :: Memory.erase m a

/-- List a byte at an address, in place of what was listed there. -/
def Memory.insert : Memory → Nat → Byte → Memory
  | [], a, b => [(a, b)]
  | (k, c) :: m, a, b =>
    if a < k then (a, b) :: (k, c) :: m
    else if a = k then (a, b) :: m
    else (k, c) :: Memory.insert m a b

/-- Store a byte, keeping the canonical form: a byte equal to the cell's reset content is not listed. -/
def Memory.write (m : Memory) (a : Nat) (b : Byte) : Memory :=
  if b = resetByte a then Memory.erase m a else Memory.insert m a b

/-- The canonical form of the cells at addresses `lo` and above: addresses strictly rising, inside the address space,
and no byte equal to its cell's reset content. -/
def Memory.wfFrom : Nat → Memory → Bool
  | _, [] => true
  | lo, (a, b) :: m => decide (lo ≤ a) && decide (a < memSize) && b != resetByte a && Memory.wfFrom (a + 1) m

/-- The memory is in its canonical form. -/
def Memory.wf (m : Memory) : Bool := Memory.wfFrom 0 m

/-! ### Addresses (R6, R41, R120) -/

/-- Reduction of an address to 12 bits: `v & 0xFFF` (R41). -/
def mask12 (w : Word) : Word := w &&& 0x0FFF#16

/-- The cell an address names. -/
def cellOf (a : Word) : Nat := (mask12 a).toNat

/-- The address of cell number `k` of an access over several cells (R54); the mask is made by the access. -/
def cellAddr (base : Word) (k : Nat) : Word := base + BitVec.ofNat 16 k

/-! ### Reads -/

/-- `V[x]` (R6, R11). -/
def State.reg (s : State) (x : Reg) : Byte := s.v[x.toNat]'x.isLt

/-- `K[k]` (R6, R22). -/
def State.key (s : State) (k : BitVec 4) : Bool := s.keys[k.toNat]'k.isLt

/-- `MemRead(a, 1)` (R6, R41). -/
def State.readByte (s : State) (a : Word) : Byte := Memory.read s.mem (cellOf a)

/-- `S[k]` (R6, R16). There is no entry 16 and above, and no instruction reads one. -/
def State.stackAt (s : State) (k : Nat) : Word := (s.stack[k]?).getD 0

/-- Pixel (col, row) of a framebuffer, `FB[row * 64 + col]` for col 0 to 63 and row 0 to 31 (R20); there are no others. -/
def Framebuffer.pixel (f : Framebuffer) (col row : Nat) : Bool := ((f[row]?).getD 0).getLsbD col

/-- Pixel (col, row) of the machine's framebuffer (R20). -/
def State.pixel (s : State) (col row : Nat) : Bool := Framebuffer.pixel s.fb col row

/-- Output `tone`: ST > 0 (R19, R27). -/
def State.tone (s : State) : Bool := decide (0 < s.st.toNat)

/-! ### Writes -/

/-- `V[x] <- b` (R6, R13): the width of `Byte` is the mask. -/
def State.setReg (s : State) (x : Reg) (b : Byte) : State := { s with v := s.v.set x.toNat b x.isLt }

/-- `I <- a`, masked to 12 bits (R6, R14). -/
def State.setI (s : State) (a : Word) : State := { s with i := mask12 a }

/-- `pc <- a`, masked to 12 bits (R6, R15). -/
def State.setPc (s : State) (a : Word) : State := { s with pc := mask12 a }

/-- `S[k] <- a` (R6, R16). -/
def State.setStack (s : State) (k : Nat) (a : Word) : State := { s with stack := s.stack.setIfInBounds k a }

/-- `SP <- k` (R17). -/
def State.setSp (s : State) (k : Fin 17) : State := { s with sp := k }

/-- `DT <- b` (R18). -/
def State.setDt (s : State) (b : Byte) : State := { s with dt := b }

/-- `ST <- b` (R19). -/
def State.setSt (s : State) (b : Byte) : State := { s with st := b }

/-- `MemWrite(a, 1, b)` (R6, R41). -/
def State.writeByte (s : State) (a : Word) (b : Byte) : State :=
  { s with mem := Memory.write s.mem (cellOf a) b }

/-- `FB[row * 64 + col] <- FB[row * 64 + col] ^ 1` (R171). -/
def Framebuffer.flip (f : Framebuffer) (col row : Nat) : Framebuffer :=
  f.setIfInBounds row ((f[row]?).getD 0 ^^^ (1#64 <<< col))

/-- Write the whole framebuffer (R20). -/
def State.setFb (s : State) (f : Framebuffer) : State := { s with fb := f }

/-- `DIRTY <- d` (R21). -/
def State.setDirty (s : State) (d : Bool) : State := { s with dirty := d }

/-- `K[k] <- d`: the host's, never a step's (R22, R210). -/
def State.setKey (s : State) (k : BitVec 4) (d : Bool) : State := { s with keys := s.keys.set k.toNat d k.isLt }

/-- `FAULT <- r` (R23). -/
def State.setFault (s : State) (r : Option FaultRecord) : State := { s with fault := r }

/-- The model's own: the next free value to take. -/
def State.setDraws (s : State) (n : Nat) : State := { s with draws := n }

/-! ### The call stack (R16, R17) -/

/-- `S[SP] <- a; SP <- SP + 1` (R102). With SP = 16 there is no entry to write; CALL faults before it comes to that. -/
def State.push (s : State) (a : Word) : State :=
  if h : s.sp.val < 16 then (s.setStack s.sp.val a).setSp ⟨s.sp.val + 1, by omega⟩ else s

/-- `SP <- SP - 1; pc <- S[SP]` (R100). The popped entry keeps its content (R16). With SP = 0 there is nothing to pop;
RET faults before it comes to that. -/
def State.popToPc (s : State) : State :=
  if 0 < s.sp.val then (s.setSp ⟨s.sp.val - 1, by omega⟩).setPc (s.stackAt (s.sp.val - 1)) else s

/-! ### The frame of every instruction (R80 to R90) -/

/-- The instruction word at PC: two cells, big-endian, each address masked (R81, R44). -/
def State.fetchWord (s : State) : Word := wordOfBytes (s.readByte s.pc) (s.readByte (s.pc + 1))

/-- The default advance of PC by 2, before the execute phase (R82). -/
def State.advance (s : State) : State := s.setPc (s.pc + 2)

/-- `Skip()`: a second advance by 2 (R90). -/
def State.skip (s : State) : State := s.setPc (s.pc + 2)

/-- Skip when a condition holds (R90). -/
def State.skipIf (s : State) (c : Bool) : State := if c then s.skip else s

/-- One timer loses 1 and stops at 0 (R86). -/
def countDown (b : Byte) : Byte := if b = 0 then 0 else b - 1

/-- `tick()`: both timers (R86). -/
def State.tick (s : State) : State := (s.setDt (countDown s.dt)).setSt (countDown s.st)

/-- An instruction that completes: the default advance, the execute phase `body`, the tick, all committed together
(R80, R87). -/
def retire (body : State → State) (s : State) : Host.Outcome State Fault Refusal :=
  .next (body s.advance).tick

/-- TAKING A FAULT (R87, R203): the step commits nothing, so PC still holds the address of the faulting instruction and
the timers do not tick; the latch takes the code and that address. The state given is the one before the step. -/
def takeFault (f : Fault) (s : State) : Host.Outcome State Fault Refusal :=
  .next (s.setFault (some { code := f, pc := s.pc }))

/-- The code number of a fault (R23, R200). -/
def faultCode (f : Fault) : Nat :=
  match f with
  | .stackOverflow => 1
  | .stackUnderflow => 2

/-! ### Block transfers (R154, R155) -/

/-- The first `count` steps of the loop of LD [I],Vx: `MemWrite(I + k, 1, V[k])`, k rising from 0 (R154). -/
def State.storeRegs (s : State) : Nat → State
  | 0 => s
  | k + 1 => (s.storeRegs k).writeByte (cellAddr s.i k) (s.reg (BitVec.ofNat 4 k))

/-- The first `count` steps of the loop of LD Vx,[I]: `V[k] <- MemRead(I + k, 1)`, k rising from 0 (R155). -/
def State.loadRegs (s : State) : Nat → State
  | 0 => s
  | k + 1 => (s.loadRegs k).setReg (BitVec.ofNat 4 k) (s.readByte (cellAddr s.i k))

end Sys2Proof.Machine
end

