-- ==== Sys2Proof/Machine/Operands.lean ====
section
/-! DEFINITION. The operand forms (spec/30_encoding.md rule R63 and the rules of the instructions that use them): every
literal is zero-extended, a register operand is the register its field names. -/

namespace Sys2Proof.Machine

/-- A literal address, zero-extended to the width of I and PC (R63). -/
def addrOperand (nnn : Addr) : Word := nnn.setWidth 16

/-- An 8-bit value as an address offset, zero-extended (R107, R151). -/
def byteOffset (b : Byte) : Word := b.setWidth 16

/-- The target of JP V0,nnn before the mask: the literal plus V0 (R107, decision D26; log entry 12). -/
def relativeTarget (nnn : Addr) (v0 : Byte) : Word := addrOperand nnn + byteOffset v0

/-- The value SHR and SHL shift (R129, decision D8; log entry 5). -/
def shiftOperand (s : State) (x y : Reg) : Byte :=
  match s.config.shiftSource with
  | .vx => s.reg x
  | .vy => s.reg y

/-- The low nibble of a register value: the digit of LD F and the key of SKP and SKNP (R152, R180, decision D10; log
entry 11). -/
def lowNibble (b : Byte) : BitVec 4 := b.extractLsb' 0 4

/-- The address of the glyph of a register value's low nibble: 0x050 + 5 * digit (R152). -/
def glyphAddress (b : Byte) : Word := 0x050#16 + (lowNibble b).setWidth 16 * 5#16

/-- The decimal digits of a value (R153). -/
def hundredsDigit (b : Byte) : Byte := BitVec.ofNat 8 (b.toNat / 100)

/-- See `hundredsDigit`. -/
def tensDigit (b : Byte) : Byte := BitVec.ofNat 8 (b.toNat / 10 % 10)

/-- See `hundredsDigit`. -/
def onesDigit (b : Byte) : Byte := BitVec.ofNat 8 (b.toNat % 10)

/-- The keys in scan order, 0 to 15 (R182). -/
def keyScan : List (BitVec 4) := (List.range 16).map (BitVec.ofNat 4)

/-- The least pressed key, if any is pressed (R182). -/
def firstPressed (s : State) : Option (BitVec 4) := keyScan.find? s.key

end Sys2Proof.Machine
end

