-- ==== Sys2Proof/Machine/Flags.lean ====
section
/-! DEFINITION. Every flag computation (spec/10_state.md rule R12, spec/42_load_alu.md rules R120 and R133): a flag is
the value 0 or 1 written to VF. -/

namespace Sys2Proof.Machine

/-- VF, register 0xF (R12). -/
def vf : Reg := 0xF#4

/-- A flag as the value of a register. -/
def flagByte (b : Bool) : Byte := if b then 1 else 0

/-- Carry of an addition: the exact sum exceeds 255 (R127). -/
def carryFlag (a b : Byte) : Bool := decide (255 < a.toNat + b.toNat)

/-- Not-borrow of minuend - subtrahend: minuend > subtrahend, strictly (R120, R128, conflict C7). -/
def notBorrowFlag (minuend subtrahend : Byte) : Bool := decide (subtrahend.toNat < minuend.toNat)

/-- The bit a right shift by one puts out: bit 0 (R129). -/
def shiftRightFlag (a : Byte) : Bool := a.getLsbD 0

/-- The bit a left shift by one puts out: bit 7 (R131). -/
def shiftLeftFlag (a : Byte) : Bool := a.getLsbD 7

/-- The two writes of a flag-writing arithmetic instruction, in the order VF_ORDER gives (R133, decision D9; log
entry 6). Operands are read before it. -/
def State.writeResultAndFlag (s : State) (x : Reg) (result : Byte) (flag : Bool) : State :=
  match s.config.vfOrder with
  | .flagLast => (s.setReg x result).setReg vf (flagByte flag)
  | .resultLast => (s.setReg vf (flagByte flag)).setReg x result

end Sys2Proof.Machine
end

