-- ==== Sys2Proof/Machine/Alu.lean ====
section
/-! DEFINITION. Register load, arithmetic, logic, shift and random (spec/42_load_alu.md rules R120 to R133). In a body,
`a` is the state after the default advance; all operands are read from it before anything is written (R133). -/

namespace Sys2Proof.Machine

/-- LD Vx, kk (R121). -/
def execLdVxKk (x : Reg) (kk : Byte) (s : State) : Host.Outcome State Fault Refusal :=
  retire (fun a => a.setReg x kk) s

/-- ADD Vx, kk (R122): no flag. -/
def execAddVxKk (x : Reg) (kk : Byte) (s : State) : Host.Outcome State Fault Refusal :=
  retire (fun a => a.setReg x (a.reg x + kk)) s

/-- LD Vx, Vy (R123). -/
def execLdVxVy (x y : Reg) (s : State) : Host.Outcome State Fault Refusal :=
  retire (fun a => a.setReg x (a.reg y)) s

/-- OR Vx, Vy (R124): no flag. -/
def execOrVxVy (x y : Reg) (s : State) : Host.Outcome State Fault Refusal :=
  retire (fun a => a.setReg x (a.reg x ||| a.reg y)) s

/-- AND Vx, Vy (R125): no flag. -/
def execAndVxVy (x y : Reg) (s : State) : Host.Outcome State Fault Refusal :=
  retire (fun a => a.setReg x (a.reg x &&& a.reg y)) s

/-- XOR Vx, Vy (R126): no flag. -/
def execXorVxVy (x y : Reg) (s : State) : Host.Outcome State Fault Refusal :=
  retire (fun a => a.setReg x (a.reg x ^^^ a.reg y)) s

/-- ADD Vx, Vy (R127): VF takes the carry. -/
def execAddVxVy (x y : Reg) (s : State) : Host.Outcome State Fault Refusal :=
  retire (fun a => a.writeResultAndFlag x (a.reg x + a.reg y) (carryFlag (a.reg x) (a.reg y))) s

/-- SUB Vx, Vy (R128): VF takes the not-borrow flag of Vx - Vy. -/
def execSubVxVy (x y : Reg) (s : State) : Host.Outcome State Fault Refusal :=
  retire (fun a => a.writeResultAndFlag x (a.reg x - a.reg y) (notBorrowFlag (a.reg x) (a.reg y))) s

/-- SHR Vx (R129): VF takes the bit shifted out. -/
def execShr (x y : Reg) (s : State) : Host.Outcome State Fault Refusal :=
  retire (fun a => a.writeResultAndFlag x (shiftOperand a x y >>> 1) (shiftRightFlag (shiftOperand a x y))) s

/-- SUBN Vx, Vy (R130): Vy - Vx into Vx; VF takes the not-borrow flag of Vy - Vx (decision D27; log entry 12). -/
def execSubnVxVy (x y : Reg) (s : State) : Host.Outcome State Fault Refusal :=
  retire (fun a => a.writeResultAndFlag x (a.reg y - a.reg x) (notBorrowFlag (a.reg y) (a.reg x))) s

/-- SHL Vx (R131): VF takes the bit shifted out. -/
def execShl (x y : Reg) (s : State) : Host.Outcome State Fault Refusal :=
  retire (fun a => a.writeResultAndFlag x (shiftOperand a x y <<< 1) (shiftLeftFlag (shiftOperand a x y))) s

/-- RND Vx, kk (R132): the next free byte, masked; no flag (decision D13; log entry 4). -/
def execRnd (x : Reg) (kk : Byte) (s : State) : Host.Outcome State Fault Refusal :=
  retire (fun a => (a.setReg x (Config.rnd a.draws &&& kk)).setDraws (a.draws + 1)) s

end Sys2Proof.Machine
end

