-- ==== Sys2Proof/Machine/Control.lean ====
section
/-! DEFINITION. Control transfer (spec/41_control_flow.md rules R100 to R108). In a body, `a` is the state after the
default advance. -/

namespace Sys2Proof.Machine

/-- RET (R100); with SP = 0, StackUnderflow (R202). -/
def execRet (s : State) : Host.Outcome State Fault Refusal :=
  if s.sp.val = 0 then takeFault .stackUnderflow s else retire (fun a => a.popToPc) s

/-- JP nnn (R101). -/
def execJp (nnn : Addr) (s : State) : Host.Outcome State Fault Refusal :=
  retire (fun a => a.setPc (addrOperand nnn)) s

/-- CALL nnn (R102): the advanced PC is saved; with SP = 16, StackOverflow (R201). -/
def execCall (nnn : Addr) (s : State) : Host.Outcome State Fault Refusal :=
  if s.sp.val = 16 then takeFault .stackOverflow s
  else retire (fun a => (a.push a.pc).setPc (addrOperand nnn)) s

/-- SE Vx, kk (R103). -/
def execSeVxKk (x : Reg) (kk : Byte) (s : State) : Host.Outcome State Fault Refusal :=
  retire (fun a => a.skipIf (a.reg x == kk)) s

/-- SNE Vx, kk (R104). -/
def execSneVxKk (x : Reg) (kk : Byte) (s : State) : Host.Outcome State Fault Refusal :=
  retire (fun a => a.skipIf (a.reg x != kk)) s

/-- SE Vx, Vy (R105). -/
def execSeVxVy (x y : Reg) (s : State) : Host.Outcome State Fault Refusal :=
  retire (fun a => a.skipIf (a.reg x == a.reg y)) s

/-- SNE Vx, Vy (R106). -/
def execSneVxVy (x y : Reg) (s : State) : Host.Outcome State Fault Refusal :=
  retire (fun a => a.skipIf (a.reg x != a.reg y)) s

/-- JP V0, nnn (R107): the base is the literal, the offset V0; I takes no part (log entry 12). -/
def execJpV0 (nnn : Addr) (s : State) : Host.Outcome State Fault Refusal :=
  retire (fun a => a.setPc (relativeTarget nnn (a.reg 0x0#4))) s

end Sys2Proof.Machine
end

