-- ==== Sys2Proof/Machine/Display.lean ====
section
/-! DEFINITION. The display (spec/44_display.md rules R170 to R173). -/

namespace Sys2Proof.Machine

/-- The variables of the loops of DRW (R171): the framebuffer, `collision` and `touched`. -/
structure Canvas where
  /-- FB -/
  fb : Framebuffer
  /-- some XOR turned a pixel off -/
  collision : Bool
  /-- some pixel was XORed (decision D18) -/
  touched : Bool
  deriving DecidableEq, Repr

/-- XOR pixel (col, row) with 1, noting a collision if it was on (R171). -/
def Canvas.flip (c : Canvas) (col row : Nat) : Canvas :=
  { fb := Framebuffer.flip c.fb col row
    collision := c.collision || Framebuffer.pixel c.fb col row
    touched := true }

/-- The column of bit `j` of a sprite drawn at column `x0`, wrapped (R171). -/
def spriteCol (x0 : Byte) (j : Nat) : Nat := (x0.toNat + j) % 64

/-- The row of row `k` of a sprite drawn at row `y0`, wrapped (R171). -/
def spriteRow (y0 : Byte) (k : Nat) : Nat := (y0.toNat + k) % 32

/-- Bit `j` of a sprite row, bit 7 of the byte for `j` = 0 (R171, decision D11; log entry 10). -/
def spriteBit (b : Byte) (j : Nat) : Bool := b.getLsbD (7 - j)

/-- The body of the inner loop of DRW (R171). -/
def drawBit (x0 y0 b : Byte) (k j : Nat) (c : Canvas) : Canvas :=
  if spriteBit b j then c.flip (spriteCol x0 j) (spriteRow y0 k) else c

/-- The first `count` steps of the inner loop, bits 0 to `count` - 1 of row `k` (R171). -/
def drawRow (x0 y0 b : Byte) (k : Nat) : Nat → Canvas → Canvas
  | 0, c => c
  | j + 1, c => drawBit x0 y0 b k j (drawRow x0 y0 b k j c)

/-- The first `count` steps of the outer loop: sprite rows 0 to `count` - 1, row `k` read from cell I + k (R171, R54). -/
def drawRows (s : State) (x0 y0 : Byte) : Nat → Canvas
  | 0 => { fb := s.fb, collision := false, touched := false }
  | k + 1 => drawRow x0 y0 (s.readByte (cellAddr s.i k)) k 8 (drawRows s x0 y0 k)

/-- What DRW commits of its loops: the framebuffer, VF, which it always writes, and DIRTY if a pixel was touched
(R171). -/
def State.commitDraw (s : State) (c : Canvas) : State :=
  if c.touched then ((s.setFb c.fb).setReg vf (flagByte c.collision)).setDirty true
  else (s.setFb c.fb).setReg vf (flagByte c.collision)

/-- CLS (R170): all pixels off, DIRTY set whether or not any was on. -/
def execCls (s : State) : Host.Outcome State Fault Refusal :=
  retire (fun a => (a.setFb Framebuffer.blank).setDirty true) s

/-- DRW Vx, Vy, n (R171): the origin is read before VF is written (decision D21); with n = 0 nothing is drawn
(decision D12; log entry 10). -/
def execDrw (x y : Reg) (n : Nibble) (s : State) : Host.Outcome State Fault Refusal :=
  retire (fun a => a.commitDraw (drawRows a (a.reg x) (a.reg y) n.toNat)) s

end Sys2Proof.Machine
end

