-- ==== Sys2Proof/Machine/IndexMemory.lean ====
section
/-! DEFINITION. Address register and memory (spec/43_index_memory.md rules R150 to R156). In a body, `a` is the state
after the default advance. No instruction here writes a flag or changes PC. -/

namespace Sys2Proof.Machine

/-- LD I, nnn (R150). -/
def execLdI (nnn : Addr) (s : State) : Host.Outcome State Fault Refusal :=
  retire (fun a => a.setI (addrOperand nnn)) s

/-- ADD I, Vx (R151): no flag. -/
def execAddIVx (x : Reg) (s : State) : Host.Outcome State Fault Refusal :=
  retire (fun a => a.setI (a.i + byteOffset (a.reg x))) s

/-- LD F, Vx (R152): an address only; no memory is read. -/
def execLdFVx (x : Reg) (s : State) : Host.Outcome State Fault Refusal :=
  retire (fun a => a.setI (glyphAddress (a.reg x))) s

/-- LD B, Vx (R153): hundreds, tens and ones to three cells from I, each address masked; I is unchanged. -/
def execLdBVx (x : Reg) (s : State) : Host.Outcome State Fault Refusal :=
  retire (fun a =>
    ((a.writeByte (cellAddr a.i 0) (hundredsDigit (a.reg x))).writeByte
      (cellAddr a.i 1) (tensDigit (a.reg x))).writeByte
      (cellAddr a.i 2) (onesDigit (a.reg x))) s

/-- LD [I], Vx (R154): registers 0 to x inclusive to the cells from I; I is unchanged. -/
def execLdMemVx (x : Reg) (s : State) : Host.Outcome State Fault Refusal :=
  retire (fun a => a.storeRegs (x.toNat + 1)) s

/-- LD Vx, [I] (R155): registers 0 to x inclusive from the cells from I; I is unchanged. -/
def execLdVxMem (x : Reg) (s : State) : Host.Outcome State Fault Refusal :=
  retire (fun a => a.loadRegs (x.toNat + 1)) s

end Sys2Proof.Machine
end

