-- ==== Sys2Proof/Machine/KeypadTimers.lean ====
section
/-! DEFINITION. Keypad and timers (spec/45_keypad_timers.md rules R180 to R186). In a body, `a` is the state after the
default advance; the tick follows in the same step, so a timer just written has lost 1 when the step is over (R86). -/

namespace Sys2Proof.Machine

/-- The key wait (R182): with no key pressed the default advance is undone, modulo 0x1000 (decision D24); else Vx takes
the least pressed key. -/
def State.keyWait (a : State) (x : Reg) : State :=
  match firstPressed a with
  | none => a.setPc (a.pc - 2)
  | some k => a.setReg x (k.setWidth 8)

/-- SKP Vx (R180): the key index is the low nibble of Vx (decision D10; log entry 11). -/
def execSkp (x : Reg) (s : State) : Host.Outcome State Fault Refusal :=
  retire (fun a => a.skipIf (a.key (lowNibble (a.reg x)))) s

/-- SKNP Vx (R181). -/
def execSknp (x : Reg) (s : State) : Host.Outcome State Fault Refusal :=
  retire (fun a => a.skipIf (!a.key (lowNibble (a.reg x)))) s

/-- LD Vx, DT (R183): the value before the tick of this step. -/
def execLdVxDt (x : Reg) (s : State) : Host.Outcome State Fault Refusal :=
  retire (fun a => a.setReg x a.dt) s

/-- LD Vx, K (R182): a poll, not a wait state; with no key pressed the instruction runs again at the next step. -/
def execLdVxK (x : Reg) (s : State) : Host.Outcome State Fault Refusal :=
  retire (fun a => a.keyWait x) s

/-- LD DT, Vx (R184). -/
def execLdDtVx (x : Reg) (s : State) : Host.Outcome State Fault Refusal :=
  retire (fun a => a.setDt (a.reg x)) s

/-- LD ST, Vx (R185). -/
def execLdStVx (x : Reg) (s : State) : Host.Outcome State Fault Refusal :=
  retire (fun a => a.setSt (a.reg x)) s

end Sys2Proof.Machine
end

