-- ==== Sys2Proof/Machine/NoOp.lean ====
section
/-! DEFINITION. The unmapped no-op (spec/40_step_cycle.md rule R85): the execute phase does nothing. -/

namespace Sys2Proof.Machine

/-- SYS nnn (R85, decision D15): the operand is ignored. -/
def execSys (_nnn : Addr) (s : State) : Host.Outcome State Fault Refusal :=
  retire (fun a => a) s

/-- Any other unmapped word (R85, R66). -/
def execUnmapped (_w : Word) (s : State) : Host.Outcome State Fault Refusal :=
  retire (fun a => a) s

end Sys2Proof.Machine
end

