-- ==== Sys2Proof/Machine/Step.lean ====
section
/-! DEFINITION. The one transition of the engine (spec/40_step_cycle.md rule R80) and the placing of a word where it
fetches. -/

namespace Sys2Proof.Machine

/-- `Step` (R80): nothing on a faulted machine (R88); else fetch (R81), decode (R83) and run the instruction, whose
meaning advances PC, executes and ticks, or takes a fault (R82, R84, R86, R87). The random byte of the step is the next
free value of the state's stream (log entry 4). -/
def step (s : State) : Host.Outcome State Fault Refusal :=
  match s.fault with
  | some _ => .next s
  | none => exec (decodeWord s.fetchWord) s

/-- `s` with the instruction whose bits are `w` (numbered as spec/opcode_table.json numbers them) in the two cells the
next step fetches, high byte first (R44, R81). The fault latch is cleared, since a faulted machine fetches nothing
(R88); nothing else changes. It stands for the loading of a program (log entry 3). -/
def State.withFetchWord (s : State) (nbits w : Nat) : State :=
  ((s.writeByte s.pc (hiByte (tableWord nbits w))).writeByte (s.pc + 1) (loByte (tableWord nbits w))).setFault none

end Sys2Proof.Machine
end

