-- ==== Sys2Proof/Machine/HostOps.lean ====
section
/-! DEFINITION. The operations of the external collaborators (spec/60_exceptions.md rule R210, spec/10_state.md rules R27
and R28, spec/70_reset_and_hazards.md rules R230 to R232). Each is atomic and none overlaps a step (R48, R216), so a run
is a list of operations. -/

namespace Sys2Proof.Machine

/-- Copy a byte sequence into memory from an address, byte for byte. -/
def Memory.copyIn : Memory → Nat → List Byte → Memory
  | m, _, [] => m
  | m, a, b :: bs => Memory.copyIn (Memory.write m a b) (a + 1) bs

/-- `Reset(image)` (R230): all state of the machine takes the values of R29 and nothing of it survives; the font of the
configuration goes to 0x050 to 0x09F and the image to 0x200 (R42). What stays is not state of the hardware: the
configuration of R4, and how far the free stream of random bytes has been read, so that a reset does not repeat the
bytes of an earlier run (log entry 4). An image of more than 3584 bytes is refused and is no operation of the core
(R232, decision D6; log entry 15). -/
def State.load (s : State) (image : List Byte) : Option State :=
  if image.length ≤ progMax then
    some { State.reset with
      mem := Memory.copyIn (Memory.copyIn [] fontBase s.config.font.toList) progBase image
      config := s.config
      draws := s.draws }
  else none

/-- `SetKey(k, pressed)` (R210): `K[k]` takes the level, nothing else changes. -/
def State.pressKey (s : State) (k : BitVec 4) (pressed : Bool) : State := s.setKey k pressed

/-- `AckRender()` (R210, decision D18): DIRTY is cleared, nothing else changes. -/
def State.ackRender (s : State) : State := s.setDirty false

/-- `ReadFB()` (R210): the 2048 pixels of the framebuffer, row-major (R20). -/
def State.readFb (s : State) : List Bool :=
  (List.range 32).flatMap fun row => (List.range 64).map fun col => s.pixel col row

/-- `ReadDirty()` (R210). -/
def State.readDirty (s : State) : Bool := s.dirty

/-- `ReadTone()` (R210): ST > 0. -/
def State.readTone (s : State) : Bool := s.tone

/-- `ReadFault()` (R210): the latch, as a code number and an address (R23). -/
def State.readFault (s : State) : Option (Nat × Word) :=
  s.fault.map fun r => (faultCode r.code, r.pc)

/-- The operations of the table of R210 that can change state. The four reads change none: they are the functions
above. -/
inductive HostOp where
  /-- the loader resets the machine and loads a program -/
  | reset (image : List Byte)
  /-- the scheduler requests one step -/
  | step
  /-- the input device sets a key -/
  | setKey (k : BitVec 4) (pressed : Bool)
  /-- the renderer has consumed the frame -/
  | ackRender
  deriving DecidableEq, Repr

/-- One operation on the machine (R210). `none`: the operation is refused and there is no such operation, which is only
so of a Reset with too long an image (R232). No operation changes the configuration of R4. -/
def State.perform (s : State) (op : HostOp) : Option State :=
  match op with
  | .reset image => s.load image
  | .step =>
    match step s with
    | .next t => some t
    | .fault _ => none
    | .refused _ => none
  | .setKey k pressed => some (s.pressKey k pressed)
  | .ackRender => some s.ackRender

/-- A run: operations in some total order (R216). -/
def State.performAll : State → List HostOp → Option State
  | s, [] => some s
  | s, op :: ops =>
    match s.perform op with
    | some t => State.performAll t ops
    | none => none

end Sys2Proof.Machine
end

