-- ==== Sys2Proof/Safety.lean ====
section
/-! DEFINITION. The terms in which claims about the machine are made: the ranges that hold in every reachable state (R30),
when an instruction completes and when it faults (R200), when a run has ended (R240), where control goes (R108), what an
instruction leaves as it was, and what a program can see. -/

namespace Sys2Proof.Machine

/-! ### The invariant -/

/-- The ranges of R30 that the types do not already give, and the canonical form of memory: I, PC and every stack entry
are below 0x1000, and so is the address a fault recorded. (SP at most 16, and 8 bits for V, DT, ST and cells, hold by
type.) -/
abbrev State.Inv (s : State) : Prop :=
  s.i.toNat < 0x1000 ∧ s.pc.toNat < 0x1000 ∧ (∀ k < 16, (s.stackAt k).toNat < 0x1000) ∧
    Memory.wf s.mem = true ∧ (∀ r ∈ s.fault, r.pc.toNat < 0x1000)

/-! ### Completing and faulting (R200, R205) -/

/-- Instruction `i` faults with `f` in state `s`: CALL with a full stack, RET with an empty one, and nothing else. -/
def Faults (i : Instr) (s : State) (f : Fault) : Prop :=
  (f = .stackOverflow ∧ (∃ nnn, i = .call nnn) ∧ s.sp.val = 16) ∨
    (f = .stackUnderflow ∧ i = .ret ∧ s.sp.val = 0)

/-- Instruction `i` does not fault in state `s`. -/
def Completes (i : Instr) (s : State) : Prop :=
  (∀ nnn, i = .call nnn → s.sp.val < 16) ∧ (i = .ret → 0 < s.sp.val)

/-! ### The end of a run (R240) -/

/-- The convention R240 suggests for "the program has ended" (decision D20; log entry 17): no fault, and PC stands on a
jump to itself. -/
def State.Ended (s : State) : Prop :=
  s.fault = none ∧ ∃ nnn : Addr, s.pc = nnn.setWidth 16 ∧ s.fetchWord = encode (.jp nnn)

/-! ### Control transfer (R90, R108) -/

/-- Where a skip goes (R90). -/
def skipTarget (s : State) (taken : Prop) [Decidable taken] : Nat :=
  if taken then (s.pc.toNat + 4) % 4096 else (s.pc.toNat + 2) % 4096

/-- The address control goes to after instruction `i` completes (R108). -/
def targetPc (i : Instr) (s : State) : Nat :=
  match i with
  | .jp nnn | .call nnn => nnn.toNat
  | .jpV0 nnn => (nnn.toNat + (s.reg 0x0#4).toNat) % 4096
  | .ret => (s.stackAt (s.sp.val - 1)).toNat % 4096
  | .seVxKk x kk => skipTarget s (s.reg x = kk)
  | .sneVxKk x kk => skipTarget s (s.reg x ≠ kk)
  | .seVxVy x y => skipTarget s (s.reg x = s.reg y)
  | .sneVxVy x y => skipTarget s (s.reg x ≠ s.reg y)
  | .skp x => skipTarget s (s.key ((s.reg x).extractLsb' 0 4) = true)
  | .sknp x => skipTarget s (s.key ((s.reg x).extractLsb' 0 4) = false)
  | .ldVxK _ => if ∃ k, s.key k = true then (s.pc.toNat + 2) % 4096 else s.pc.toNat % 4096
  | .cls | .sys _ | .unmapped _ => (s.pc.toNat + 2) % 4096
  | .ldVxKk _ _ | .addVxKk _ _ | .rnd _ _ => (s.pc.toNat + 2) % 4096
  | .ldVxVy _ _ | .orVxVy _ _ | .andVxVy _ _ | .xorVxVy _ _ => (s.pc.toNat + 2) % 4096
  | .addVxVy _ _ | .subVxVy _ _ | .shr _ _ | .subnVxVy _ _ | .shl _ _ => (s.pc.toNat + 2) % 4096
  | .ldI _ | .addIVx _ | .ldFVx _ | .ldBVx _ | .ldMemVx _ | .ldVxMem _ => (s.pc.toNat + 2) % 4096
  | .drw _ _ _ | .ldVxDt _ | .ldDtVx _ | .ldStVx _ => (s.pc.toNat + 2) % 4096

/-! ### Frames: what a step from `s` to `t` leaves as it was -/

/-- Every general register but those `written` keeps its value. -/
def RegsKept (written : Reg → Prop) (s t : State) : Prop := ∀ r, ¬ written r → t.reg r = s.reg r

/-- Every cell but those `stored` keeps its content. -/
def MemKept (stored : Word → Prop) (s t : State) : Prop := ∀ a, ¬ stored a → t.readByte a = s.readByte a

/-- The call stack and its pointer keep their values. -/
def CallsKept (s t : State) : Prop := t.sp = s.sp ∧ ∀ k < 16, t.stackAt k = s.stackAt k

/-- The framebuffer and DIRTY keep their values. -/
def ScreenKept (s t : State) : Prop :=
  t.dirty = s.dirty ∧ ∀ col < 64, ∀ row < 32, t.pixel col row = s.pixel col row

/-- The key latch, the fault latch and the configuration keep their values. -/
def LatchesKept (s t : State) : Prop := (∀ k, t.key k = s.key k) ∧ t.fault = s.fault ∧ t.config = s.config

/-- Both timers lost 1, and stopped at 0 (R86). -/
def Ticked (s t : State) : Prop := t.dt.toNat = s.dt.toNat - 1 ∧ t.st.toNat = s.st.toNat - 1

/-- No general register is written. -/
def noReg : Reg → Prop := fun _ => False

/-- No cell is stored to. -/
def noCell : Word → Prop := fun _ => False

/-- The cells of an access of `count` cells from I, each address masked (R54). -/
def cellsFromI (s : State) (count : Nat) (a : Word) : Prop :=
  ∃ k < count, a.toNat % 4096 = (s.i.toNat + k) % 4096

/-- The frame of an instruction that writes the registers `written` and the cells `stored`, and neither the stack nor
the screen, takes no random byte and does not fault. I, PC and the timers are left to each statement. -/
def Frame (written : Reg → Prop) (stored : Word → Prop) (s t : State) : Prop :=
  RegsKept written s t ∧ MemKept stored s t ∧ CallsKept s t ∧ ScreenKept s t ∧ LatchesKept s t ∧ t.draws = s.draws

/-- Nothing but PC and the timers changes, and the timers tick. -/
def Quiet (s t : State) : Prop := Frame noReg noCell s t ∧ t.i = s.i ∧ Ticked s t

/-- Nothing but the registers `written`, PC and the timers changes, and the timers tick. -/
def OnlyRegs (written : Reg → Prop) (s t : State) : Prop := Frame written noCell s t ∧ t.i = s.i ∧ Ticked s t

/-- The registers an instruction may write: its destination Vx, V0 to Vx for the block load (R11), and VF for the six
flag-writing instructions (R12). -/
def WritesReg (i : Instr) (r : Reg) : Prop :=
  match i with
  | .ldVxKk x _ | .addVxKk x _ | .rnd x _ => r = x
  | .ldVxVy x _ | .orVxVy x _ | .andVxVy x _ | .xorVxVy x _ => r = x
  | .ldVxDt x | .ldVxK x => r = x
  | .addVxVy x _ | .subVxVy x _ | .shr x _ | .subnVxVy x _ | .shl x _ => r = x ∨ r = 0xF#4
  | .drw _ _ _ => r = 0xF#4
  | .ldVxMem x => r.toNat ≤ x.toNat
  | .cls | .ret | .jp _ | .call _ | .jpV0 _ | .sys _ | .unmapped _ => False
  | .seVxKk _ _ | .sneVxKk _ _ | .seVxVy _ _ | .sneVxVy _ _ | .skp _ | .sknp _ => False
  | .ldI _ | .addIVx _ | .ldFVx _ | .ldBVx _ | .ldMemVx _ | .ldDtVx _ | .ldStVx _ => False

/-! ### The result of a flag-writing arithmetic instruction (R133) -/

/-- Vx holds the result and VF the flag; where the destination is VF itself, the one VF_ORDER writes last. -/
def ResultAndFlag (x : Reg) (result flag : Nat) (s t : State) : Prop :=
  (x ≠ 0xF#4 → (t.reg x).toNat = result ∧ (t.reg 0xF#4).toNat = flag) ∧
    (x = 0xF#4 → s.config.vfOrder = .flagLast → (t.reg 0xF#4).toNat = flag) ∧
    (x = 0xF#4 → s.config.vfOrder = .resultLast → (t.reg 0xF#4).toNat = result)

/-! ### Sprites (R171) -/

/-- The draw of n rows from the memory at I with origin (x0, y0) XORs pixel (col, row): the pixel lies under a set bit of
a sprite row, both coordinates wrapped, bit 7 of the row byte at the origin column. -/
def SpriteCovers (s : State) (x0 y0 : Byte) (n col row : Nat) : Prop :=
  ∃ k < n, ∃ j < 8, (s.readByte (s.i + BitVec.ofNat 16 k)).getLsbD (7 - j) = true ∧
    col = (x0.toNat + j) % 64 ∧ row = (y0.toNat + k) % 32

/-! ### What a program can see (R16, R19, R21, R25) -/

/-- Two states look the same to a program: they agree in everything but DIRTY, ST and the stack entries at SP and
above. -/
def SameToProgram (s t : State) : Prop :=
  s.mem = t.mem ∧ s.v = t.v ∧ s.i = t.i ∧ s.pc = t.pc ∧ s.sp = t.sp ∧ (∀ k < s.sp.val, s.stackAt k = t.stackAt k) ∧
    s.dt = t.dt ∧ s.fb = t.fb ∧ s.keys = t.keys ∧ s.fault = t.fault ∧ s.config = t.config ∧ s.draws = t.draws

end Sys2Proof.Machine
end

