-- ==== Sys2Proof/Certificates/Slice0/Obligations.lean ====
section
/-! DEFINITION. The statements for the provers. Each docstring names the rule of spec/ it formalises; a clause that rests
on a choice the spec marks as its own (a decision D<n>, or general knowledge G<n>) says so. -/

open Sys2Proof Sys2Proof.Machine

/-! ### Encoding (spec/30_encoding.md) -/

/-- R65: one word of each format and family, written out from its pattern, decodes to the instruction it stands for. The
numbers of the opcode map are general knowledge G1 (decision D16), but for the four words of S7. -/
def Obligations.DecodesWrittenWords : Prop :=
  decodeWord 0x00E0#16 = .cls ∧ decodeWord 0x00EE#16 = .ret ∧ decodeWord 0x6005#16 = .ldVxKk 0x0#4 0x05#8 ∧
    decodeWord 0x6103#16 = .ldVxKk 0x1#4 0x03#8 ∧ decodeWord 0x8014#16 = .addVxVy 0x0#4 0x1#4 ∧
    decodeWord 0x1ABC#16 = .jp 0xABC#12 ∧ decodeWord 0xD235#16 = .drw 0x2#4 0x3#4 0x5#4 ∧
    decodeWord 0xE59E#16 = .skp 0x5#4 ∧ decodeWord 0xF265#16 = .ldVxMem 0x2#4 ∧
    decodeWord 0x0123#16 = .sys 0x123#12 ∧ decodeWord 0x5AB1#16 = .unmapped 0x5AB1#16

/-- R61, R64, R65: decoding the word of a well-formed instruction gives the instruction back, every operand with it. The
opcode map is general knowledge G1. -/
def Obligations.DecodeOfEncodeIsTheInstruction : Prop :=
  ∀ i : Instr, WellFormed i → decodeWord (encode i) = i

/-- R64: decoding is total and every word has exactly one meaning: each word decodes to a well-formed instruction whose
word it is. The opcode map is general knowledge G1. -/
def Obligations.EveryWordSpellsOneInstruction : Prop :=
  ∀ w : Word, WellFormed (decodeWord w) ∧ encode (decodeWord w) = w

/-- R66: the words that decode to a no-op are exactly the words the table of R66 lists (with decisions D14, D15 and
D29). -/
def Obligations.NoOpWordsAreTheUnmappedWords : Prop :=
  ∀ w : Word, ((∃ nnn, decodeWord w = .sys nnn) ∨ decodeWord w = .unmapped w) ↔ isUnmappedWord w = true

/-- R65, R66: a word selects at most one of the 34 mapped rows; if it selects one, it decodes to that row's instruction,
and if it selects none, to the no-op of row 35. -/
def Obligations.DecoderFollowsTheOpcodeMap : Prop :=
  ∀ w : Word,
    (∀ r ∈ opcodeTable, r.selects w = true → r.mnemonic = mnemonicOf (decodeWord w)) ∧
      (∀ r ∈ opcodeTable, ∀ r' ∈ opcodeTable, r.selects w = true → r'.selects w = true → r = r') ∧
      ((∀ r ∈ opcodeTable, r.selects w = false) → mnemonicOf (decodeWord w) = "SYS_nnn")

/-- R44, R60, R70: an instruction's two bytes, high byte first, decode to it, and the bytes after them are left over. -/
def Obligations.BytesDecodeToTheInstruction : Prop :=
  ∀ (i : Instr) (rest : List Byte), WellFormed i → decodeBytes (encodeBytes i ++ rest) = .ok (i, rest)

/-! ### The step (spec/40_step_cycle.md) -/

/-- R81, R83, R84: on a machine that is not faulted, a step runs the instruction decoded from the two cells at PC and
PC + 1, the first the high byte, each address masked to 12 bits; and the two cells always decode, so that the fetch
cannot fault. `exec` is the whole cycle of the instruction: default advance, execute phase and tick. -/
def Obligations.StepRunsTheDecodedInstruction : Prop :=
  (∀ (s : State) (i : Instr), s.fault = none →
    decodeBytes [Memory.read s.mem (s.pc.toNat % 4096), Memory.read s.mem ((s.pc.toNat + 1) % 4096)] = .ok (i, []) →
    step s = exec i s) ∧
  (∀ s : State, ∃ i, WellFormed i ∧
    decodeBytes [Memory.read s.mem (s.pc.toNat % 4096), Memory.read s.mem ((s.pc.toNat + 1) % 4096)] = .ok (i, []))

/-- R88 (decision D5): a step of a faulted machine changes nothing. -/
def Obligations.FaultedMachineStandsStill : Prop :=
  ∀ s : State, s.fault ≠ none → step s = .next s

/-- R89, R214: a step always answers a next state; it never throws and never blocks. -/
def Obligations.StepAlwaysAnswersANextState : Prop :=
  ∀ s : State, ∃ t, step s = .next t

/-- R86: every completed instruction ticks both timers, whatever it is; a timer it writes itself is ticked after the
write. -/
def Obligations.CompletedInstructionTicksBothTimers : Prop :=
  ∀ (i : Instr) (s : State), Completes i s → ∃ t, exec i s = .next t ∧
    (∀ x, i = .ldDtVx x → t.dt.toNat = (s.reg x).toNat - 1) ∧
    ((∀ x, i ≠ .ldDtVx x) → t.dt.toNat = s.dt.toNat - 1) ∧
    (∀ x, i = .ldStVx x → t.st.toNat = (s.reg x).toNat - 1) ∧
    ((∀ x, i ≠ .ldStVx x) → t.st.toNat = s.st.toNat - 1)

/-- R108: where control goes after every instruction that completes (the masks of PC are decision D1, the targets of JP
V0 and of the key skips decisions D26 and D10). -/
def Obligations.ControlGoesToTheTarget : Prop :=
  ∀ (i : Instr) (s : State), Completes i s → ∃ t, exec i s = .next t ∧ t.pc.toNat = targetPc i s

/-- R87, R203: an instruction that faults commits nothing: the next state is the state before, but for the latch, which
takes the code and the address of the faulting instruction (decisions D3, D4 and D5; log entry 7). -/
def Obligations.FaultChangesOnlyTheLatch : Prop :=
  ∀ (i : Instr) (s : State) (f : Fault), Faults i s f → ∃ t, exec i s = .next t ∧
    t.fault = some { code := f, pc := s.pc } ∧ { t with fault := s.fault } = s

/-- R200, R205, R214: nothing sets the latch but a CALL with a full stack and a RET with an empty one (decision D5). -/
def Obligations.OnlyStackFaultsSetTheLatch : Prop :=
  ∀ (i : Instr) (s t : State), exec i s = .next t → t.fault ≠ s.fault →
    ∃ f, Faults i s f ∧ t.fault = some { code := f, pc := s.pc }

/-! ### Invariants (spec/10_state.md) -/

/-- R30: the invariant holds after reset. -/
def Obligations.ResetMeetsTheInvariant : Prop :=
  State.reset.Inv

/-- R30: every step keeps I, PC, the stack entries and a recorded fault address below 0x1000, and memory in its canonical
form (the masks of PC are decision D1). -/
def Obligations.StepKeepsTheInvariant : Prop :=
  ∀ s t : State, s.Inv → step s = .next t → t.Inv

/-- R30, R210, R216: every run, any operations of the host and steps in any order, keeps the invariant. -/
def Obligations.RunsKeepTheInvariant : Prop :=
  ∀ (ops : List HostOp) (s t : State), s.Inv → s.performAll ops = some t → t.Inv

/-! ### Who writes what (spec/10_state.md, spec/20_memory.md) -/

/-- R22, R28: no step changes the key latch or the configuration. -/
def Obligations.StepsKeepKeysAndConfiguration : Prop :=
  ∀ s t : State, step s = .next t → (∀ k, t.key k = s.key k) ∧ t.config = s.config

/-- R52: no instruction but LD B and LD [I] changes memory. -/
def Obligations.OnlyTwoInstructionsStore : Prop :=
  ∀ (i : Instr) (s t : State), exec i s = .next t → (∀ x, i ≠ .ldBVx x) → (∀ x, i ≠ .ldMemVx x) → t.mem = s.mem

/-- R14: no instruction but LD I, ADD I and LD F changes the address register. -/
def Obligations.OnlyThreeInstructionsWriteI : Prop :=
  ∀ (i : Instr) (s t : State), exec i s = .next t → (∀ nnn, i ≠ .ldI nnn) → (∀ x, i ≠ .addIVx x) →
    (∀ x, i ≠ .ldFVx x) → t.i = s.i

/-- R16, R17: no instruction but CALL and RET changes SP, no instruction but CALL changes a stack entry, and CALL changes
only the entry SP names. -/
def Obligations.OnlyCallAndReturnTouchTheStack : Prop :=
  ∀ (i : Instr) (s t : State), exec i s = .next t →
    ((∀ nnn, i ≠ .call nnn) → i ≠ .ret → t.sp = s.sp) ∧
      ((∀ nnn, i ≠ .call nnn) → t.stack = s.stack) ∧
      (∀ k, k ≠ s.sp.val → t.stackAt k = s.stackAt k)

/-- R20, R21: no instruction but CLS and DRW changes the framebuffer or DIRTY, and no instruction clears DIRTY. -/
def Obligations.OnlyTwoInstructionsWriteTheScreen : Prop :=
  ∀ (i : Instr) (s t : State), exec i s = .next t →
    (i ≠ .cls → (∀ x y n, i ≠ .drw x y n) → t.fb = s.fb ∧ t.dirty = s.dirty) ∧ (s.dirty = true → t.dirty = true)

/-- R11, R12: an instruction writes only its destination registers and, for the six flag-writing instructions, VF. -/
def Obligations.RegistersChangeOnlyWhereNamed : Prop :=
  ∀ (i : Instr) (s t : State) (r : Reg), exec i s = .next t → ¬ WritesReg i r → t.reg r = s.reg r

/-- R16, R19, R21, R25: what a step does to all else does not depend on DIRTY, ST or the stack entries at SP and above: a
program cannot see them. -/
def Obligations.ProgramCannotSeeDirtySoundOrDeadStack : Prop :=
  ∀ s s' t t' : State, SameToProgram s s' → step s = .next t → step s' = .next t' → SameToProgram t t'

/-! ### Reset and the host (spec/70_reset_and_hazards.md, spec/60_exceptions.md) -/

/-- R42: the address map after Reset, for any font table and any image that fits, and the entry point. -/
def Obligations.LoadedMemoryMap : Prop :=
  ∀ (s : State) (image : List Byte), image.length ≤ 3584 →
    ∃ t, s.load image = some t ∧ t.pc = 0x200#16 ∧ ∀ a < 4096,
      Memory.read t.mem a =
        if 0x200 ≤ a ∧ a < 0x200 + image.length then image.getD (a - 0x200) 0
        else if 0x050 ≤ a ∧ a ≤ 0x09F then s.config.font.toList.getD (a - 0x050) 0
        else 0

/-- R29: Reset leaves PC at 0x200 and an empty stack, and by decision D7 (log entry 1) every other register, timer,
pixel and key zero; the model's `State.reset` is the reset with the default font and the empty image (log entry 3). -/
def Obligations.LoadResetsEverything : Prop :=
  State.load State.reset [] = some State.reset ∧
    ∀ (s t : State) (image : List Byte), s.load image = some t →
      t.pc = 0x200#16 ∧ t.sp.val = 0 ∧ (∀ r, t.reg r = 0) ∧ t.i = 0 ∧ (∀ k < 16, t.stackAt k = 0) ∧
        t.dt = 0 ∧ t.st = 0 ∧ (∀ col < 64, ∀ row < 32, t.pixel col row = false) ∧ t.dirty = false ∧
        (∀ k, t.key k = false) ∧ t.fault = none

/-- R4: the configuration, font and switches, is fixed for a machine: no run changes it, whatever resets it holds. (That
it is a field of the state is the model's form; log entries 2, 5 and 6.) -/
def Obligations.RunsKeepTheConfiguration : Prop :=
  ∀ (ops : List HostOp) (s t : State), s.performAll ops = some t → t.config = s.config

/-- R232 (decision D6; log entry 15): an image of more than 3584 bytes is refused. -/
def Obligations.OversizedImageIsRefused : Prop :=
  ∀ (s : State) (image : List Byte), 3584 < image.length → s.perform (.reset image) = none

/-- R210: SetKey sets one key and AckRender clears DIRTY (decision D18), and nothing else changes; and what the reads of
the host table answer, which change nothing: ReadFB the 2048 pixels, row-major (R20), ReadDirty DIRTY, ReadTone whether
ST is positive (R19), ReadFault the latch, with code 1 for StackOverflow and 2 for StackUnderflow (R23, R200; the codes
are decision D5; log entry 7). -/
def Obligations.HostOperationsTouchTheirOwnPart : Prop :=
  (∀ (s : State) (k : BitVec 4) (pressed : Bool), ∃ t, s.perform (.setKey k pressed) = some t ∧
    t.key k = pressed ∧ (∀ j, j ≠ k → t.key j = s.key j) ∧ { t with keys := s.keys } = s) ∧
  (∀ s : State, ∃ t, s.perform .ackRender = some t ∧ t.dirty = false ∧ { t with dirty := s.dirty } = s) ∧
  (∀ s : State, s.readFb.length = 2048 ∧
    ∀ col < 64, ∀ row < 32, s.readFb[row * 64 + col]? = some (s.pixel col row)) ∧
  (∀ s : State, s.readDirty = s.dirty ∧ (s.readTone = true ↔ 0 < s.st.toNat)) ∧
  (∀ s : State, (s.fault = none → s.readFault = none) ∧
    (∀ pc, s.fault = some { code := .stackOverflow, pc := pc } → s.readFault = some (1, pc)) ∧
    (∀ pc, s.fault = some { code := .stackUnderflow, pc := pc } → s.readFault = some (2, pc)))

/-- R50: a block store over the next instruction is seen by the very next fetch: with I at the next instruction and
x at least 1, the step after LD [I],Vx runs the word made of V0 and V1. -/
def Obligations.StoreIsSeenByTheNextFetch : Prop :=
  ∀ (x : Reg) (s : State), 1 ≤ x.toNat → s.fault = none → s.i.toNat % 4096 = (s.pc.toNat + 2) % 4096 →
    ∃ t, exec (.ldMemVx x) s = .next t ∧ step t = exec (decodeWord (s.reg 0x0#4 ++ s.reg 0x1#4)) t

/-! ### Control transfer (spec/41_control_flow.md) -/

/-- R100: RET with a saved address takes it off the stack into PC; the entry keeps its content. (With none saved it
faults: decision D4, `FaultChangesOnlyTheLatch`. The mask of PC is decision D1.) -/
def Obligations.ReturnPopsTheSavedAddress : Prop :=
  ∀ s : State, 0 < s.sp.val → ∃ t, exec .ret s = .next t ∧
    t.sp.val = s.sp.val - 1 ∧ t.pc.toNat = (s.stackAt (s.sp.val - 1)).toNat % 4096 ∧
    (∀ k < 16, t.stackAt k = s.stackAt k) ∧ RegsKept noReg s t ∧ MemKept noCell s t ∧ ScreenKept s t ∧
    LatchesKept s t ∧ t.draws = s.draws ∧ t.i = s.i ∧ Ticked s t

/-- R101: JP goes to its literal and changes nothing else but the timers. -/
def Obligations.JumpGoesToTheLiteral : Prop :=
  ∀ (nnn : Addr) (s : State), ∃ t, exec (.jp nnn) s = .next t ∧ t.pc.toNat = nnn.toNat ∧ Quiet s t

/-- R102: CALL with room on the stack saves the address of the next instruction and goes to its literal. (With none it
faults: decision D3, `FaultChangesOnlyTheLatch`. That the saved address is masked is decision D1.) -/
def Obligations.CallSavesTheReturnAddress : Prop :=
  ∀ (nnn : Addr) (s : State), s.sp.val < 16 → ∃ t, exec (.call nnn) s = .next t ∧
    (t.stackAt s.sp.val).toNat = (s.pc.toNat + 2) % 4096 ∧ t.sp.val = s.sp.val + 1 ∧ t.pc.toNat = nnn.toNat ∧
    (∀ k < 16, k ≠ s.sp.val → t.stackAt k = s.stackAt k) ∧ RegsKept noReg s t ∧ MemKept noCell s t ∧
    ScreenKept s t ∧ LatchesKept s t ∧ t.draws = s.draws ∧ t.i = s.i ∧ Ticked s t

/-- S5, R100, R102: a CALL and then a RET come back to the instruction after the CALL with SP as it was. -/
def Obligations.ReturnUndoesCall : Prop :=
  ∀ (nnn : Addr) (s : State), s.sp.val < 16 → ∃ t u, exec (.call nnn) s = .next t ∧ exec .ret t = .next u ∧
    u.pc.toNat = (s.pc.toNat + 2) % 4096 ∧ u.sp = s.sp

/-- R90, R103, R104, R105, R106: each of the four compares skips two further bytes when its condition holds, and changes
nothing else but the timers. -/
def Obligations.ComparesSkip : Prop :=
  (∀ (x : Reg) (kk : Byte) (s : State), ∃ t, exec (.seVxKk x kk) s = .next t ∧
    t.pc.toNat = skipTarget s (s.reg x = kk) ∧ Quiet s t) ∧
  (∀ (x : Reg) (kk : Byte) (s : State), ∃ t, exec (.sneVxKk x kk) s = .next t ∧
    t.pc.toNat = skipTarget s (s.reg x ≠ kk) ∧ Quiet s t) ∧
  (∀ (x y : Reg) (s : State), ∃ t, exec (.seVxVy x y) s = .next t ∧
    t.pc.toNat = skipTarget s (s.reg x = s.reg y) ∧ Quiet s t) ∧
  (∀ (x y : Reg) (s : State), ∃ t, exec (.sneVxVy x y) s = .next t ∧
    t.pc.toNat = skipTarget s (s.reg x ≠ s.reg y) ∧ Quiet s t)

/-- R107: JP V0 goes to its literal plus V0, masked (the base is the literal by decision D26; log entry 12). -/
def Obligations.JumpPlusV0 : Prop :=
  ∀ (nnn : Addr) (s : State), ∃ t, exec (.jpV0 nnn) s = .next t ∧
    t.pc.toNat = (nnn.toNat + (s.reg 0x0#4).toNat) % 4096 ∧ Quiet s t

/-- R240: a machine whose PC stands on a jump to itself stays there: every later step changes only the timers, which fall
to 0 and stay. (That this is the end of a run is the convention R240 suggests, decision D20; log entry 17.) -/
def Obligations.JumpToSelfChangesOnlyTheTimers : Prop :=
  ∀ s : State, s.Ended → ∀ n, ∃ t, Host.Core.run Sys2Proof.core n s = .next t ∧
    t.dt.toNat = s.dt.toNat - n ∧ t.st.toNat = s.st.toNat - n ∧ { t with dt := s.dt, st := s.st } = s

/-! ### Loads, arithmetic and logic (spec/42_load_alu.md) -/

/-- R121, R123: the literal load and the register copy. -/
def Obligations.LoadsIntoARegister : Prop :=
  (∀ (x : Reg) (kk : Byte) (s : State), ∃ t, exec (.ldVxKk x kk) s = .next t ∧ t.reg x = kk ∧ OnlyRegs (· = x) s t) ∧
  (∀ (x y : Reg) (s : State), ∃ t, exec (.ldVxVy x y) s = .next t ∧ t.reg x = s.reg y ∧ OnlyRegs (· = x) s t)

/-- R122: the literal addition wraps at 256 and writes no flag. -/
def Obligations.AddLiteralWraps : Prop :=
  ∀ (x : Reg) (kk : Byte) (s : State), ∃ t, exec (.addVxKk x kk) s = .next t ∧
    (t.reg x).toNat = ((s.reg x).toNat + kk.toNat) % 256 ∧ OnlyRegs (· = x) s t

/-- R124, R125, R126: OR, AND and XOR, bit by bit; no flag. -/
def Obligations.BitwiseLogic : Prop :=
  ∀ (x y : Reg) (s : State),
    (∃ t, exec (.orVxVy x y) s = .next t ∧ OnlyRegs (· = x) s t ∧
      ∀ j < 8, (t.reg x).getLsbD j = ((s.reg x).getLsbD j || (s.reg y).getLsbD j)) ∧
    (∃ t, exec (.andVxVy x y) s = .next t ∧ OnlyRegs (· = x) s t ∧
      ∀ j < 8, (t.reg x).getLsbD j = ((s.reg x).getLsbD j && (s.reg y).getLsbD j)) ∧
    (∃ t, exec (.xorVxVy x y) s = .next t ∧ OnlyRegs (· = x) s t ∧
      ∀ j < 8, (t.reg x).getLsbD j = ((s.reg x).getLsbD j ^^ (s.reg y).getLsbD j))

/-- R127, R133: the sum mod 256, and 1 in VF exactly when the sum exceeds 255; operands are read before either write.
Where x is VF, what stays is as decision D9 leaves it open: either order of the switch. -/
def Obligations.AddWithCarry : Prop :=
  ∀ (x y : Reg) (s : State), ∃ t, exec (.addVxVy x y) s = .next t ∧
    ResultAndFlag x (((s.reg x).toNat + (s.reg y).toNat) % 256)
      (if 255 < (s.reg x).toNat + (s.reg y).toNat then 1 else 0) s t ∧
    OnlyRegs (fun r => r = x ∨ r = 0xF#4) s t

/-- R128, R130, R133: both directions of subtraction mod 256, and 1 in VF exactly when the minuend is strictly greater
(conflict C7). That SUBN writes Vx is decision D27; where x is VF, decision D9 as above. -/
def Obligations.SubtractBothWays : Prop :=
  ∀ (x y : Reg) (s : State),
    (∃ t, exec (.subVxVy x y) s = .next t ∧
      ResultAndFlag x (((s.reg x).toNat + 256 - (s.reg y).toNat) % 256)
        (if (s.reg y).toNat < (s.reg x).toNat then 1 else 0) s t ∧
      OnlyRegs (fun r => r = x ∨ r = 0xF#4) s t) ∧
    (∃ t, exec (.subnVxVy x y) s = .next t ∧
      ResultAndFlag x (((s.reg y).toNat + 256 - (s.reg x).toNat) % 256)
        (if (s.reg x).toNat < (s.reg y).toNat then 1 else 0) s t ∧
      OnlyRegs (fun r => r = x ∨ r = 0xF#4) s t)

/-- R129, R131, R133: shifts by one of the register SHIFT_SOURCE names (decision D8, both settings), the bit shifted out
to VF; where x is VF, decision D9 as above. -/
def Obligations.ShiftsByOne : Prop :=
  ∀ (x y : Reg) (s : State) (a : Byte),
    a = (if s.config.shiftSource = .vx then s.reg x else s.reg y) →
    (∃ t, exec (.shr x y) s = .next t ∧ ResultAndFlag x (a.toNat / 2) (a.toNat % 2) s t ∧
      OnlyRegs (fun r => r = x ∨ r = 0xF#4) s t) ∧
    (∃ t, exec (.shl x y) s = .next t ∧ ResultAndFlag x (a.toNat * 2 % 256) (a.toNat / 128) s t ∧
      OnlyRegs (fun r => r = x ∨ r = 0xF#4) s t)

/-- R132: RND writes the random byte of its step masked with the literal, so bits clear in kk are clear in Vx; no flag.
The byte is a free value (decision D13; log entry 4), and the next RND takes the next one. -/
def Obligations.RandomByteIsMasked : Prop :=
  ∀ (x : Reg) (kk : Byte) (s : State), ∃ t, exec (.rnd x kk) s = .next t ∧
    t.reg x = Config.rnd s.draws &&& kk ∧ t.reg x &&& ~~~kk = 0 ∧ t.draws = s.draws + 1 ∧
    RegsKept (· = x) s t ∧ MemKept noCell s t ∧ CallsKept s t ∧ ScreenKept s t ∧ LatchesKept s t ∧ t.i = s.i ∧
    Ticked s t

/-! ### Address register and memory (spec/43_index_memory.md) -/

/-- R150, R151, R152: the three writes of the address register; no flag. -/
def Obligations.AddressRegisterWrites : Prop :=
  (∀ (nnn : Addr) (s : State), ∃ t, exec (.ldI nnn) s = .next t ∧ t.i.toNat = nnn.toNat ∧
    Frame noReg noCell s t ∧ Ticked s t) ∧
  (∀ (x : Reg) (s : State), ∃ t, exec (.addIVx x) s = .next t ∧
    t.i.toNat = (s.i.toNat + (s.reg x).toNat) % 4096 ∧ Frame noReg noCell s t ∧ Ticked s t) ∧
  (∀ (x : Reg) (s : State), ∃ t, exec (.ldFVx x) s = .next t ∧
    t.i.toNat = 0x050 + (s.reg x).toNat % 16 * 5 ∧ Frame noReg noCell s t ∧ Ticked s t)

/-- R153, R54: the hundreds, tens and ones digits of Vx go to cells I, I + 1 and I + 2, each address masked; I and every
other cell keep their values. -/
def Obligations.DecimalDigitsAreStored : Prop :=
  ∀ (x : Reg) (s : State), ∃ t, exec (.ldBVx x) s = .next t ∧
    (t.readByte s.i).toNat = (s.reg x).toNat / 100 ∧
    (t.readByte (s.i + 1)).toNat = (s.reg x).toNat / 10 % 10 ∧
    (t.readByte (s.i + 2)).toNat = (s.reg x).toNat % 10 ∧
    Frame noReg (cellsFromI s 3) s t ∧ t.i = s.i ∧ Ticked s t

/-- R154, R54: registers 0 to x go to the x + 1 cells from I, each address masked; I and every other cell keep their
values. -/
def Obligations.BlockStore : Prop :=
  ∀ (x : Reg) (s : State), ∃ t, exec (.ldMemVx x) s = .next t ∧
    (∀ k ≤ x.toNat, t.readByte (s.i + BitVec.ofNat 16 k) = s.reg (BitVec.ofNat 4 k)) ∧
    Frame noReg (cellsFromI s (x.toNat + 1)) s t ∧ t.i = s.i ∧ Ticked s t

/-- R155, R54: registers 0 to x take the x + 1 cells from I, each address masked; I and the registers above x keep their
values. -/
def Obligations.BlockLoad : Prop :=
  ∀ (x : Reg) (s : State), ∃ t, exec (.ldVxMem x) s = .next t ∧
    (∀ r : Reg, r.toNat ≤ x.toNat → t.reg r = s.readByte (s.i + BitVec.ofNat 16 r.toNat)) ∧
    OnlyRegs (fun r => r.toNat ≤ x.toNat) s t

/-- R155: a block load directly after a block store with the same x restores every register. -/
def Obligations.LoadAfterStoreRestores : Prop :=
  ∀ (x : Reg) (s : State), ∃ t u, exec (.ldMemVx x) s = .next t ∧ exec (.ldVxMem x) t = .next u ∧
    (∀ r, u.reg r = s.reg r) ∧ u.i = s.i

/-! ### Display (spec/44_display.md) -/

/-- R170: CLS turns every pixel off and sets DIRTY, whatever was there. -/
def Obligations.ClearScreen : Prop :=
  ∀ s : State, ∃ t, exec .cls s = .next t ∧ (∀ col < 64, ∀ row < 32, t.pixel col row = false) ∧ t.dirty = true ∧
    RegsKept noReg s t ∧ MemKept noCell s t ∧ CallsKept s t ∧ LatchesKept s t ∧ t.draws = s.draws ∧ t.i = s.i ∧
    Ticked s t

/-- R171: DRW turns over exactly the pixels the sprite covers, VF tells whether one of them was on, and DIRTY is set if
there is one; the origin is read before VF is written. (Bit order, n = 0, "touched" and the order of the reads are
decisions D11, D12, D18 and D21; log entry 10.) -/
def Obligations.DrawXorsTheSprite : Prop :=
  ∀ (x y : Reg) (n : Nibble) (s : State), ∃ t, exec (.drw x y n) s = .next t ∧
    (∀ col < 64, ∀ row < 32,
      (t.pixel col row ≠ s.pixel col row ↔ SpriteCovers s (s.reg x) (s.reg y) n.toNat col row)) ∧
    ((∃ col row, SpriteCovers s (s.reg x) (s.reg y) n.toNat col row ∧ s.pixel col row = true) →
      t.reg 0xF#4 = 1) ∧
    ((¬ ∃ col row, SpriteCovers s (s.reg x) (s.reg y) n.toNat col row ∧ s.pixel col row = true) →
      t.reg 0xF#4 = 0) ∧
    (t.dirty = true ↔ s.dirty = true ∨ ∃ col row, SpriteCovers s (s.reg x) (s.reg y) n.toNat col row) ∧
    RegsKept (· = 0xF#4) s t ∧ MemKept noCell s t ∧ CallsKept s t ∧ LatchesKept s t ∧ t.draws = s.draws ∧
    t.i = s.i ∧ Ticked s t

/-- R173: the same draw twice (the same Vx and Vy the second time) leaves the framebuffer as it was; if the sprite covers
a pixel, VF is 1 after one of the two draws, and after the second when the first was drawn on pixels that were all
off. (A draw with x or y = F whose VF write moves the origin is no second draw at the same Vx, Vy. Bit order, n = 0 and
the order of the reads are decisions D11, D12 and D21; log entry 10.) -/
def Obligations.DrawingTwiceRestoresTheScreen : Prop :=
  ∀ (x y : Reg) (n : Nibble) (s t : State), exec (.drw x y n) s = .next t →
    t.reg x = s.reg x → t.reg y = s.reg y → ∃ u, exec (.drw x y n) t = .next u ∧
      (∀ col < 64, ∀ row < 32, u.pixel col row = s.pixel col row) ∧
      ((∃ col row, SpriteCovers s (s.reg x) (s.reg y) n.toNat col row) →
        (t.reg 0xF#4 = 1 ∨ u.reg 0xF#4 = 1) ∧
          ((∀ col row, SpriteCovers s (s.reg x) (s.reg y) n.toNat col row → s.pixel col row = false) →
            u.reg 0xF#4 = 1))

/-! ### Keypad and timers (spec/45_keypad_timers.md), no-ops (spec/40_step_cycle.md) -/

/-- R180, R181: the key skips test the key the low nibble of Vx names (decision D10; log entry 11). -/
def Obligations.KeySkips : Prop :=
  ∀ (x : Reg) (s : State) (k : BitVec 4), k.toNat = (s.reg x).toNat % 16 →
    (∃ t, exec (.skp x) s = .next t ∧ t.pc.toNat = skipTarget s (s.key k = true) ∧ Quiet s t) ∧
    (∃ t, exec (.sknp x) s = .next t ∧ t.pc.toNat = skipTarget s (s.key k = false) ∧ Quiet s t)

/-- R182: with no key pressed PC stays (modulo 0x1000, decision D24) and nothing changes but the timers; with a key
pressed Vx takes the least pressed key and PC goes on. -/
def Obligations.KeyWait : Prop :=
  ∀ (x : Reg) (s : State),
    ((∀ k, s.key k = false) → ∃ t, exec (.ldVxK x) s = .next t ∧ t.pc.toNat = s.pc.toNat % 4096 ∧ Quiet s t) ∧
    (∀ k, s.key k = true → (∀ j, j.toNat < k.toNat → s.key j = false) →
      ∃ t, exec (.ldVxK x) s = .next t ∧ (t.reg x).toNat = k.toNat ∧ t.pc.toNat = (s.pc.toNat + 2) % 4096 ∧
        OnlyRegs (· = x) s t)

/-- R183, R184, R185: LD Vx,DT reads DT before the tick of its step; a timer that LD DT or LD ST writes has lost 1 when
the step is over, and the other timer ticks; in every state the tone is on exactly when ST is positive (R19), so after
LD ST exactly when Vx was above 1. -/
def Obligations.TimerReadsAndWrites : Prop :=
  ∀ (x : Reg) (s : State),
    (∃ t, exec (.ldVxDt x) s = .next t ∧ t.reg x = s.dt ∧ OnlyRegs (· = x) s t) ∧
    (∃ t, exec (.ldDtVx x) s = .next t ∧ t.dt.toNat = (s.reg x).toNat - 1 ∧ t.st.toNat = s.st.toNat - 1 ∧
      Frame noReg noCell s t ∧ t.i = s.i) ∧
    (∃ t, exec (.ldStVx x) s = .next t ∧ t.st.toNat = (s.reg x).toNat - 1 ∧ t.dt.toNat = s.dt.toNat - 1 ∧
      (t.readTone = true ↔ 1 < (s.reg x).toNat) ∧ Frame noReg noCell s t ∧ t.i = s.i) ∧
    (s.readTone = true ↔ 0 < s.st.toNat)

/-- R85: an unmapped word, SYS among them (decision D15), only advances PC by 2 and ticks the timers. -/
def Obligations.UnmappedWordsDoNothing : Prop :=
  (∀ (nnn : Addr) (s : State), ∃ t, exec (.sys nnn) s = .next t ∧
    t.pc.toNat = (s.pc.toNat + 2) % 4096 ∧ Quiet s t) ∧
  (∀ (w : Word) (s : State), ∃ t, exec (.unmapped w) s = .next t ∧
    t.pc.toNat = (s.pc.toNat + 2) % 4096 ∧ Quiet s t)
end

