-- ==== Sys2Proof/Laws/Memory.lean ====
section
/-! SUPPORT. The laws of memory: a read after a write gives the value written, a write leaves every other cell alone,
and every memory operation keeps the canonical form. -/

namespace Sys2Proof.Laws

open Sys2Proof.Machine

/-! ### The canonical form, one bound at a time -/

theorem wfFrom_cons (lo a : Nat) (b : Byte) (m : Memory) :
    Memory.wfFrom lo ((a, b) :: m) = true ↔
      lo ≤ a ∧ a < memSize ∧ b ≠ resetByte a ∧ Memory.wfFrom (a + 1) m = true := by
  simp [Memory.wfFrom, and_assoc]

theorem wfFrom_weaken {lo lo' : Nat} (h : lo' ≤ lo) :
    ∀ {m : Memory}, Memory.wfFrom lo m = true → Memory.wfFrom lo' m = true
  | [], _ => rfl
  | (a, b) :: m, hm => by
    rw [wfFrom_cons] at hm ⊢
    exact ⟨by omega, hm.2⟩

/-! ### insert and erase -/

theorem lookup_insert (m : Memory) (a a' : Nat) (b : Byte) :
    Memory.lookup (Memory.insert m a b) a' = if a' = a then some b else Memory.lookup m a' := by
  induction m with
  | nil => simp [Memory.insert, Memory.lookup]
  | cons e m ih =>
    obtain ⟨k, c⟩ := e
    unfold Memory.insert
    split
    · simp [Memory.lookup]
    · split
      · subst_vars
        simp only [Memory.lookup]
        split <;> simp_all
      · simp only [Memory.lookup, ih]
        split <;> split <;> simp_all

theorem lookup_erase_ne (m : Memory) {a a' : Nat} (h : a' ≠ a) :
    Memory.lookup (Memory.erase m a) a' = Memory.lookup m a' := by
  induction m with
  | nil => rfl
  | cons e m ih =>
    obtain ⟨k, c⟩ := e
    unfold Memory.erase
    split
    · subst_vars
      simp [Memory.lookup, h, ih]
    · simp only [Memory.lookup, ih]

theorem lookup_erase_self (m : Memory) (a : Nat) : Memory.lookup (Memory.erase m a) a = none := by
  induction m with
  | nil => rfl
  | cons e m ih =>
    obtain ⟨k, c⟩ := e
    unfold Memory.erase
    split
    · exact ih
    · rename_i hne
      simp [Memory.lookup, hne, ih]

theorem wfFrom_erase {m : Memory} {lo : Nat} (hm : Memory.wfFrom lo m = true) (a : Nat) :
    Memory.wfFrom lo (Memory.erase m a) = true := by
  induction m generalizing lo with
  | nil => rfl
  | cons e m ih =>
    obtain ⟨k, c⟩ := e
    have hm' := (wfFrom_cons ..).1 hm
    unfold Memory.erase
    split
    · exact wfFrom_weaken (by omega) (ih hm'.2.2.2)
    · exact (wfFrom_cons ..).2 ⟨hm'.1, hm'.2.1, hm'.2.2.1, ih hm'.2.2.2⟩

theorem wfFrom_insert {m : Memory} {lo a : Nat} {b : Byte} (hm : Memory.wfFrom lo m = true) (hlo : lo ≤ a)
    (ha : a < memSize) (hb : b ≠ resetByte a) : Memory.wfFrom lo (Memory.insert m a b) = true := by
  induction m generalizing lo with
  | nil => exact (wfFrom_cons ..).2 ⟨hlo, ha, hb, rfl⟩
  | cons e m ih =>
    obtain ⟨k, c⟩ := e
    have hm' := (wfFrom_cons ..).1 hm
    unfold Memory.insert
    split
    · exact (wfFrom_cons ..).2 ⟨hlo, ha, hb, (wfFrom_cons ..).2 ⟨by omega, hm'.2⟩⟩
    · split
      · subst_vars
        exact (wfFrom_cons ..).2 ⟨hlo, ha, hb, hm'.2.2.2⟩
      · exact (wfFrom_cons ..).2 ⟨hm'.1, hm'.2.1, hm'.2.2.1, ih hm'.2.2.2 (by omega)⟩

/-! ### read and write -/

/-- Everything a write can do to what is read: it changes the one cell. -/
theorem read_write (m : Memory) (a a' : Nat) (b : Byte) :
    Memory.read (Memory.write m a b) a' = if a' = a then b else Memory.read m a' := by
  unfold Memory.read Memory.write
  split
  · rename_i hb
    by_cases h : a' = a
    · subst h
      simp [lookup_erase_self, hb]
    · simp [lookup_erase_ne _ h, h]
  · rw [lookup_insert]
    split <;> simp_all

theorem wf_write {m : Memory} (hm : Memory.wf m = true) {a : Nat} (ha : a < memSize) (b : Byte) :
    Memory.wf (Memory.write m a b) = true := by
  unfold Memory.wf Memory.write
  split
  · exact wfFrom_erase hm a
  · exact wfFrom_insert hm (Nat.zero_le a) ha ‹_›

/-- A loaded image keeps the canonical form when it fits in memory (R230, R232). -/
theorem wf_copyIn {m : Memory} (hm : Memory.wf m = true) (a : Nat) (bs : List Byte) (h : a + bs.length ≤ memSize) :
    Memory.wf (Memory.copyIn m a bs) = true := by
  induction bs generalizing m a with
  | nil => exact hm
  | cons b bs ih =>
    simp only [List.length_cons] at h
    exact ih (wf_write hm (by omega) b) (a + 1) (by omega)

/-- Memory after reset lists nothing, and that is the canonical form. -/
theorem wf_reset : Memory.wf State.reset.mem = true := rfl

/-- All that the loader's copy does to what is read (R230). -/
theorem read_copyIn (m : Memory) (base : Nat) (bs : List Byte) (a : Nat) :
    Memory.read (Memory.copyIn m base bs) a =
      if base ≤ a ∧ a < base + bs.length then bs.getD (a - base) 0 else Memory.read m a := by
  induction bs generalizing m base with
  | nil => simp [Memory.copyIn]
  | cons b bs ih =>
    simp only [Memory.copyIn, ih, read_write, List.length_cons]
    by_cases h1 : a = base
    · subst h1
      simp
    · by_cases h2 : base + 1 ≤ a ∧ a < base + 1 + bs.length
      · rw [if_pos h2, if_pos (by omega), show a - base = a - (base + 1) + 1 by omega, List.getD_cons_succ]
      · rw [if_neg h2, if_neg h1, if_neg (by omega)]

/-- All that a Reset can do (R230, R232): it needs an image that fits, and says the whole state. -/
theorem load_cases {s t : State} {image : List Byte} (h : s.load image = some t) :
    image.length ≤ progMax ∧
      t = { State.reset with
        mem := Memory.copyIn (Memory.copyIn [] fontBase s.config.font.toList) progBase image
        config := s.config
        draws := s.draws } := by
  unfold State.load at h
  split at h
  · exact ⟨‹_›, by injection h with h; exact h.symm⟩
  · cases h

/-! ### Addresses -/

theorem mask12_toNat (w : Word) : (mask12 w).toNat = w.toNat % 4096 := by
  unfold mask12
  rw [BitVec.toNat_and]
  exact Nat.and_two_pow_sub_one_eq_mod w.toNat 12

theorem cellOf_eq (a : Word) : cellOf a = a.toNat % 4096 := mask12_toNat a

theorem cellOf_lt (a : Word) : cellOf a < memSize := by
  rw [cellOf_eq]
  exact Nat.mod_lt _ (by decide)

theorem mask12_lt (w : Word) : (mask12 w).toNat < 0x1000 := by
  rw [mask12_toNat]
  exact Nat.mod_lt _ (by decide)

/-- Masking twice is masking once. -/
@[simp] theorem mask12_mask12 (w : Word) : mask12 (mask12 w) = mask12 w := by
  apply BitVec.eq_of_toNat_eq
  simp [mask12_toNat]

/-- A value of 12 bits is its own mask. -/
theorem mask12_of_lt {w : Word} (h : w.toNat < 0x1000) : mask12 w = w := by
  apply BitVec.eq_of_toNat_eq
  rw [mask12_toNat]
  exact Nat.mod_eq_of_lt h

@[simp] theorem cellOf_mask12 (a : Word) : cellOf (mask12 a) = cellOf a := by
  simp [cellOf]

end Sys2Proof.Laws
end

