-- ==== Sys2Proof/Laws/State.lean ====
section
/-! SUPPORT. The small lemmas of the state: what each named update does to each field, by rfl, so that no later proof
unfolds a record update. -/

namespace Sys2Proof.Laws

open Sys2Proof.Machine

variable (s : State)

/-! ### setReg -/

@[simp] theorem setReg_mem (x : Reg) (b : Byte) : (s.setReg x b).mem = s.mem := rfl
@[simp] theorem setReg_v (x : Reg) (b : Byte) : (s.setReg x b).v = s.v.set x.toNat b x.isLt := rfl
@[simp] theorem setReg_i (x : Reg) (b : Byte) : (s.setReg x b).i = s.i := rfl
@[simp] theorem setReg_pc (x : Reg) (b : Byte) : (s.setReg x b).pc = s.pc := rfl
@[simp] theorem setReg_stack (x : Reg) (b : Byte) : (s.setReg x b).stack = s.stack := rfl
@[simp] theorem setReg_sp (x : Reg) (b : Byte) : (s.setReg x b).sp = s.sp := rfl
@[simp] theorem setReg_dt (x : Reg) (b : Byte) : (s.setReg x b).dt = s.dt := rfl
@[simp] theorem setReg_st (x : Reg) (b : Byte) : (s.setReg x b).st = s.st := rfl
@[simp] theorem setReg_fb (x : Reg) (b : Byte) : (s.setReg x b).fb = s.fb := rfl
@[simp] theorem setReg_dirty (x : Reg) (b : Byte) : (s.setReg x b).dirty = s.dirty := rfl
@[simp] theorem setReg_keys (x : Reg) (b : Byte) : (s.setReg x b).keys = s.keys := rfl
@[simp] theorem setReg_fault (x : Reg) (b : Byte) : (s.setReg x b).fault = s.fault := rfl
@[simp] theorem setReg_config (x : Reg) (b : Byte) : (s.setReg x b).config = s.config := rfl
@[simp] theorem setReg_draws (x : Reg) (b : Byte) : (s.setReg x b).draws = s.draws := rfl

/-! ### setI -/

@[simp] theorem setI_mem (a : Word) : (s.setI a).mem = s.mem := rfl
@[simp] theorem setI_v (a : Word) : (s.setI a).v = s.v := rfl
@[simp] theorem setI_i (a : Word) : (s.setI a).i = mask12 a := rfl
@[simp] theorem setI_pc (a : Word) : (s.setI a).pc = s.pc := rfl
@[simp] theorem setI_stack (a : Word) : (s.setI a).stack = s.stack := rfl
@[simp] theorem setI_sp (a : Word) : (s.setI a).sp = s.sp := rfl
@[simp] theorem setI_dt (a : Word) : (s.setI a).dt = s.dt := rfl
@[simp] theorem setI_st (a : Word) : (s.setI a).st = s.st := rfl
@[simp] theorem setI_fb (a : Word) : (s.setI a).fb = s.fb := rfl
@[simp] theorem setI_dirty (a : Word) : (s.setI a).dirty = s.dirty := rfl
@[simp] theorem setI_keys (a : Word) : (s.setI a).keys = s.keys := rfl
@[simp] theorem setI_fault (a : Word) : (s.setI a).fault = s.fault := rfl
@[simp] theorem setI_config (a : Word) : (s.setI a).config = s.config := rfl
@[simp] theorem setI_draws (a : Word) : (s.setI a).draws = s.draws := rfl

/-! ### setPc -/

@[simp] theorem setPc_mem (a : Word) : (s.setPc a).mem = s.mem := rfl
@[simp] theorem setPc_v (a : Word) : (s.setPc a).v = s.v := rfl
@[simp] theorem setPc_i (a : Word) : (s.setPc a).i = s.i := rfl
@[simp] theorem setPc_pc (a : Word) : (s.setPc a).pc = mask12 a := rfl
@[simp] theorem setPc_stack (a : Word) : (s.setPc a).stack = s.stack := rfl
@[simp] theorem setPc_sp (a : Word) : (s.setPc a).sp = s.sp := rfl
@[simp] theorem setPc_dt (a : Word) : (s.setPc a).dt = s.dt := rfl
@[simp] theorem setPc_st (a : Word) : (s.setPc a).st = s.st := rfl
@[simp] theorem setPc_fb (a : Word) : (s.setPc a).fb = s.fb := rfl
@[simp] theorem setPc_dirty (a : Word) : (s.setPc a).dirty = s.dirty := rfl
@[simp] theorem setPc_keys (a : Word) : (s.setPc a).keys = s.keys := rfl
@[simp] theorem setPc_fault (a : Word) : (s.setPc a).fault = s.fault := rfl
@[simp] theorem setPc_config (a : Word) : (s.setPc a).config = s.config := rfl
@[simp] theorem setPc_draws (a : Word) : (s.setPc a).draws = s.draws := rfl

/-! ### setStack -/

@[simp] theorem setStack_mem (k : Nat) (a : Word) : (s.setStack k a).mem = s.mem := rfl
@[simp] theorem setStack_v (k : Nat) (a : Word) : (s.setStack k a).v = s.v := rfl
@[simp] theorem setStack_i (k : Nat) (a : Word) : (s.setStack k a).i = s.i := rfl
@[simp] theorem setStack_pc (k : Nat) (a : Word) : (s.setStack k a).pc = s.pc := rfl
@[simp] theorem setStack_stack (k : Nat) (a : Word) : (s.setStack k a).stack = s.stack.setIfInBounds k a := rfl
@[simp] theorem setStack_sp (k : Nat) (a : Word) : (s.setStack k a).sp = s.sp := rfl
@[simp] theorem setStack_dt (k : Nat) (a : Word) : (s.setStack k a).dt = s.dt := rfl
@[simp] theorem setStack_st (k : Nat) (a : Word) : (s.setStack k a).st = s.st := rfl
@[simp] theorem setStack_fb (k : Nat) (a : Word) : (s.setStack k a).fb = s.fb := rfl
@[simp] theorem setStack_dirty (k : Nat) (a : Word) : (s.setStack k a).dirty = s.dirty := rfl
@[simp] theorem setStack_keys (k : Nat) (a : Word) : (s.setStack k a).keys = s.keys := rfl
@[simp] theorem setStack_fault (k : Nat) (a : Word) : (s.setStack k a).fault = s.fault := rfl
@[simp] theorem setStack_config (k : Nat) (a : Word) : (s.setStack k a).config = s.config := rfl
@[simp] theorem setStack_draws (k : Nat) (a : Word) : (s.setStack k a).draws = s.draws := rfl

/-! ### setSp -/

@[simp] theorem setSp_mem (k : Fin 17) : (s.setSp k).mem = s.mem := rfl
@[simp] theorem setSp_v (k : Fin 17) : (s.setSp k).v = s.v := rfl
@[simp] theorem setSp_i (k : Fin 17) : (s.setSp k).i = s.i := rfl
@[simp] theorem setSp_pc (k : Fin 17) : (s.setSp k).pc = s.pc := rfl
@[simp] theorem setSp_stack (k : Fin 17) : (s.setSp k).stack = s.stack := rfl
@[simp] theorem setSp_sp (k : Fin 17) : (s.setSp k).sp = k := rfl
@[simp] theorem setSp_dt (k : Fin 17) : (s.setSp k).dt = s.dt := rfl
@[simp] theorem setSp_st (k : Fin 17) : (s.setSp k).st = s.st := rfl
@[simp] theorem setSp_fb (k : Fin 17) : (s.setSp k).fb = s.fb := rfl
@[simp] theorem setSp_dirty (k : Fin 17) : (s.setSp k).dirty = s.dirty := rfl
@[simp] theorem setSp_keys (k : Fin 17) : (s.setSp k).keys = s.keys := rfl
@[simp] theorem setSp_fault (k : Fin 17) : (s.setSp k).fault = s.fault := rfl
@[simp] theorem setSp_config (k : Fin 17) : (s.setSp k).config = s.config := rfl
@[simp] theorem setSp_draws (k : Fin 17) : (s.setSp k).draws = s.draws := rfl

/-! ### setDt -/

@[simp] theorem setDt_mem (b : Byte) : (s.setDt b).mem = s.mem := rfl
@[simp] theorem setDt_v (b : Byte) : (s.setDt b).v = s.v := rfl
@[simp] theorem setDt_i (b : Byte) : (s.setDt b).i = s.i := rfl
@[simp] theorem setDt_pc (b : Byte) : (s.setDt b).pc = s.pc := rfl
@[simp] theorem setDt_stack (b : Byte) : (s.setDt b).stack = s.stack := rfl
@[simp] theorem setDt_sp (b : Byte) : (s.setDt b).sp = s.sp := rfl
@[simp] theorem setDt_dt (b : Byte) : (s.setDt b).dt = b := rfl
@[simp] theorem setDt_st (b : Byte) : (s.setDt b).st = s.st := rfl
@[simp] theorem setDt_fb (b : Byte) : (s.setDt b).fb = s.fb := rfl
@[simp] theorem setDt_dirty (b : Byte) : (s.setDt b).dirty = s.dirty := rfl
@[simp] theorem setDt_keys (b : Byte) : (s.setDt b).keys = s.keys := rfl
@[simp] theorem setDt_fault (b : Byte) : (s.setDt b).fault = s.fault := rfl
@[simp] theorem setDt_config (b : Byte) : (s.setDt b).config = s.config := rfl
@[simp] theorem setDt_draws (b : Byte) : (s.setDt b).draws = s.draws := rfl

/-! ### setSt -/

@[simp] theorem setSt_mem (b : Byte) : (s.setSt b).mem = s.mem := rfl
@[simp] theorem setSt_v (b : Byte) : (s.setSt b).v = s.v := rfl
@[simp] theorem setSt_i (b : Byte) : (s.setSt b).i = s.i := rfl
@[simp] theorem setSt_pc (b : Byte) : (s.setSt b).pc = s.pc := rfl
@[simp] theorem setSt_stack (b : Byte) : (s.setSt b).stack = s.stack := rfl
@[simp] theorem setSt_sp (b : Byte) : (s.setSt b).sp = s.sp := rfl
@[simp] theorem setSt_dt (b : Byte) : (s.setSt b).dt = s.dt := rfl
@[simp] theorem setSt_st (b : Byte) : (s.setSt b).st = b := rfl
@[simp] theorem setSt_fb (b : Byte) : (s.setSt b).fb = s.fb := rfl
@[simp] theorem setSt_dirty (b : Byte) : (s.setSt b).dirty = s.dirty := rfl
@[simp] theorem setSt_keys (b : Byte) : (s.setSt b).keys = s.keys := rfl
@[simp] theorem setSt_fault (b : Byte) : (s.setSt b).fault = s.fault := rfl
@[simp] theorem setSt_config (b : Byte) : (s.setSt b).config = s.config := rfl
@[simp] theorem setSt_draws (b : Byte) : (s.setSt b).draws = s.draws := rfl

/-! ### writeByte -/

@[simp] theorem writeByte_mem (a : Word) (b : Byte) : (s.writeByte a b).mem = Memory.write s.mem (cellOf a) b := rfl
@[simp] theorem writeByte_v (a : Word) (b : Byte) : (s.writeByte a b).v = s.v := rfl
@[simp] theorem writeByte_i (a : Word) (b : Byte) : (s.writeByte a b).i = s.i := rfl
@[simp] theorem writeByte_pc (a : Word) (b : Byte) : (s.writeByte a b).pc = s.pc := rfl
@[simp] theorem writeByte_stack (a : Word) (b : Byte) : (s.writeByte a b).stack = s.stack := rfl
@[simp] theorem writeByte_sp (a : Word) (b : Byte) : (s.writeByte a b).sp = s.sp := rfl
@[simp] theorem writeByte_dt (a : Word) (b : Byte) : (s.writeByte a b).dt = s.dt := rfl
@[simp] theorem writeByte_st (a : Word) (b : Byte) : (s.writeByte a b).st = s.st := rfl
@[simp] theorem writeByte_fb (a : Word) (b : Byte) : (s.writeByte a b).fb = s.fb := rfl
@[simp] theorem writeByte_dirty (a : Word) (b : Byte) : (s.writeByte a b).dirty = s.dirty := rfl
@[simp] theorem writeByte_keys (a : Word) (b : Byte) : (s.writeByte a b).keys = s.keys := rfl
@[simp] theorem writeByte_fault (a : Word) (b : Byte) : (s.writeByte a b).fault = s.fault := rfl
@[simp] theorem writeByte_config (a : Word) (b : Byte) : (s.writeByte a b).config = s.config := rfl
@[simp] theorem writeByte_draws (a : Word) (b : Byte) : (s.writeByte a b).draws = s.draws := rfl

/-! ### setFb -/

@[simp] theorem setFb_mem (f : Framebuffer) : (s.setFb f).mem = s.mem := rfl
@[simp] theorem setFb_v (f : Framebuffer) : (s.setFb f).v = s.v := rfl
@[simp] theorem setFb_i (f : Framebuffer) : (s.setFb f).i = s.i := rfl
@[simp] theorem setFb_pc (f : Framebuffer) : (s.setFb f).pc = s.pc := rfl
@[simp] theorem setFb_stack (f : Framebuffer) : (s.setFb f).stack = s.stack := rfl
@[simp] theorem setFb_sp (f : Framebuffer) : (s.setFb f).sp = s.sp := rfl
@[simp] theorem setFb_dt (f : Framebuffer) : (s.setFb f).dt = s.dt := rfl
@[simp] theorem setFb_st (f : Framebuffer) : (s.setFb f).st = s.st := rfl
@[simp] theorem setFb_fb (f : Framebuffer) : (s.setFb f).fb = f := rfl
@[simp] theorem setFb_dirty (f : Framebuffer) : (s.setFb f).dirty = s.dirty := rfl
@[simp] theorem setFb_keys (f : Framebuffer) : (s.setFb f).keys = s.keys := rfl
@[simp] theorem setFb_fault (f : Framebuffer) : (s.setFb f).fault = s.fault := rfl
@[simp] theorem setFb_config (f : Framebuffer) : (s.setFb f).config = s.config := rfl
@[simp] theorem setFb_draws (f : Framebuffer) : (s.setFb f).draws = s.draws := rfl

/-! ### setDirty -/

@[simp] theorem setDirty_mem (d : Bool) : (s.setDirty d).mem = s.mem := rfl
@[simp] theorem setDirty_v (d : Bool) : (s.setDirty d).v = s.v := rfl
@[simp] theorem setDirty_i (d : Bool) : (s.setDirty d).i = s.i := rfl
@[simp] theorem setDirty_pc (d : Bool) : (s.setDirty d).pc = s.pc := rfl
@[simp] theorem setDirty_stack (d : Bool) : (s.setDirty d).stack = s.stack := rfl
@[simp] theorem setDirty_sp (d : Bool) : (s.setDirty d).sp = s.sp := rfl
@[simp] theorem setDirty_dt (d : Bool) : (s.setDirty d).dt = s.dt := rfl
@[simp] theorem setDirty_st (d : Bool) : (s.setDirty d).st = s.st := rfl
@[simp] theorem setDirty_fb (d : Bool) : (s.setDirty d).fb = s.fb := rfl
@[simp] theorem setDirty_dirty (d : Bool) : (s.setDirty d).dirty = d := rfl
@[simp] theorem setDirty_keys (d : Bool) : (s.setDirty d).keys = s.keys := rfl
@[simp] theorem setDirty_fault (d : Bool) : (s.setDirty d).fault = s.fault := rfl
@[simp] theorem setDirty_config (d : Bool) : (s.setDirty d).config = s.config := rfl
@[simp] theorem setDirty_draws (d : Bool) : (s.setDirty d).draws = s.draws := rfl

/-! ### setKey -/

@[simp] theorem setKey_mem (k : BitVec 4) (d : Bool) : (s.setKey k d).mem = s.mem := rfl
@[simp] theorem setKey_v (k : BitVec 4) (d : Bool) : (s.setKey k d).v = s.v := rfl
@[simp] theorem setKey_i (k : BitVec 4) (d : Bool) : (s.setKey k d).i = s.i := rfl
@[simp] theorem setKey_pc (k : BitVec 4) (d : Bool) : (s.setKey k d).pc = s.pc := rfl
@[simp] theorem setKey_stack (k : BitVec 4) (d : Bool) : (s.setKey k d).stack = s.stack := rfl
@[simp] theorem setKey_sp (k : BitVec 4) (d : Bool) : (s.setKey k d).sp = s.sp := rfl
@[simp] theorem setKey_dt (k : BitVec 4) (d : Bool) : (s.setKey k d).dt = s.dt := rfl
@[simp] theorem setKey_st (k : BitVec 4) (d : Bool) : (s.setKey k d).st = s.st := rfl
@[simp] theorem setKey_fb (k : BitVec 4) (d : Bool) : (s.setKey k d).fb = s.fb := rfl
@[simp] theorem setKey_dirty (k : BitVec 4) (d : Bool) : (s.setKey k d).dirty = s.dirty := rfl
@[simp] theorem setKey_keys (k : BitVec 4) (d : Bool) : (s.setKey k d).keys = s.keys.set k.toNat d k.isLt := rfl
@[simp] theorem setKey_fault (k : BitVec 4) (d : Bool) : (s.setKey k d).fault = s.fault := rfl
@[simp] theorem setKey_config (k : BitVec 4) (d : Bool) : (s.setKey k d).config = s.config := rfl
@[simp] theorem setKey_draws (k : BitVec 4) (d : Bool) : (s.setKey k d).draws = s.draws := rfl

/-! ### setFault -/

@[simp] theorem setFault_mem (r : Option FaultRecord) : (s.setFault r).mem = s.mem := rfl
@[simp] theorem setFault_v (r : Option FaultRecord) : (s.setFault r).v = s.v := rfl
@[simp] theorem setFault_i (r : Option FaultRecord) : (s.setFault r).i = s.i := rfl
@[simp] theorem setFault_pc (r : Option FaultRecord) : (s.setFault r).pc = s.pc := rfl
@[simp] theorem setFault_stack (r : Option FaultRecord) : (s.setFault r).stack = s.stack := rfl
@[simp] theorem setFault_sp (r : Option FaultRecord) : (s.setFault r).sp = s.sp := rfl
@[simp] theorem setFault_dt (r : Option FaultRecord) : (s.setFault r).dt = s.dt := rfl
@[simp] theorem setFault_st (r : Option FaultRecord) : (s.setFault r).st = s.st := rfl
@[simp] theorem setFault_fb (r : Option FaultRecord) : (s.setFault r).fb = s.fb := rfl
@[simp] theorem setFault_dirty (r : Option FaultRecord) : (s.setFault r).dirty = s.dirty := rfl
@[simp] theorem setFault_keys (r : Option FaultRecord) : (s.setFault r).keys = s.keys := rfl
@[simp] theorem setFault_fault (r : Option FaultRecord) : (s.setFault r).fault = r := rfl
@[simp] theorem setFault_config (r : Option FaultRecord) : (s.setFault r).config = s.config := rfl
@[simp] theorem setFault_draws (r : Option FaultRecord) : (s.setFault r).draws = s.draws := rfl

/-! ### setDraws -/

@[simp] theorem setDraws_mem (n : Nat) : (s.setDraws n).mem = s.mem := rfl
@[simp] theorem setDraws_v (n : Nat) : (s.setDraws n).v = s.v := rfl
@[simp] theorem setDraws_i (n : Nat) : (s.setDraws n).i = s.i := rfl
@[simp] theorem setDraws_pc (n : Nat) : (s.setDraws n).pc = s.pc := rfl
@[simp] theorem setDraws_stack (n : Nat) : (s.setDraws n).stack = s.stack := rfl
@[simp] theorem setDraws_sp (n : Nat) : (s.setDraws n).sp = s.sp := rfl
@[simp] theorem setDraws_dt (n : Nat) : (s.setDraws n).dt = s.dt := rfl
@[simp] theorem setDraws_st (n : Nat) : (s.setDraws n).st = s.st := rfl
@[simp] theorem setDraws_fb (n : Nat) : (s.setDraws n).fb = s.fb := rfl
@[simp] theorem setDraws_dirty (n : Nat) : (s.setDraws n).dirty = s.dirty := rfl
@[simp] theorem setDraws_keys (n : Nat) : (s.setDraws n).keys = s.keys := rfl
@[simp] theorem setDraws_fault (n : Nat) : (s.setDraws n).fault = s.fault := rfl
@[simp] theorem setDraws_config (n : Nat) : (s.setDraws n).config = s.config := rfl
@[simp] theorem setDraws_draws (n : Nat) : (s.setDraws n).draws = n := rfl

/-! ### advance -/

@[simp] theorem advance_mem : s.advance.mem = s.mem := rfl
@[simp] theorem advance_v : s.advance.v = s.v := rfl
@[simp] theorem advance_i : s.advance.i = s.i := rfl
@[simp] theorem advance_pc : s.advance.pc = mask12 (s.pc + 2) := rfl
@[simp] theorem advance_stack : s.advance.stack = s.stack := rfl
@[simp] theorem advance_sp : s.advance.sp = s.sp := rfl
@[simp] theorem advance_dt : s.advance.dt = s.dt := rfl
@[simp] theorem advance_st : s.advance.st = s.st := rfl
@[simp] theorem advance_fb : s.advance.fb = s.fb := rfl
@[simp] theorem advance_dirty : s.advance.dirty = s.dirty := rfl
@[simp] theorem advance_keys : s.advance.keys = s.keys := rfl
@[simp] theorem advance_fault : s.advance.fault = s.fault := rfl
@[simp] theorem advance_config : s.advance.config = s.config := rfl
@[simp] theorem advance_draws : s.advance.draws = s.draws := rfl

/-! ### skip -/

@[simp] theorem skip_mem : s.skip.mem = s.mem := rfl
@[simp] theorem skip_v : s.skip.v = s.v := rfl
@[simp] theorem skip_i : s.skip.i = s.i := rfl
@[simp] theorem skip_pc : s.skip.pc = mask12 (s.pc + 2) := rfl
@[simp] theorem skip_stack : s.skip.stack = s.stack := rfl
@[simp] theorem skip_sp : s.skip.sp = s.sp := rfl
@[simp] theorem skip_dt : s.skip.dt = s.dt := rfl
@[simp] theorem skip_st : s.skip.st = s.st := rfl
@[simp] theorem skip_fb : s.skip.fb = s.fb := rfl
@[simp] theorem skip_dirty : s.skip.dirty = s.dirty := rfl
@[simp] theorem skip_keys : s.skip.keys = s.keys := rfl
@[simp] theorem skip_fault : s.skip.fault = s.fault := rfl
@[simp] theorem skip_config : s.skip.config = s.config := rfl
@[simp] theorem skip_draws : s.skip.draws = s.draws := rfl

/-! ### tick -/

@[simp] theorem tick_mem : s.tick.mem = s.mem := rfl
@[simp] theorem tick_v : s.tick.v = s.v := rfl
@[simp] theorem tick_i : s.tick.i = s.i := rfl
@[simp] theorem tick_pc : s.tick.pc = s.pc := rfl
@[simp] theorem tick_stack : s.tick.stack = s.stack := rfl
@[simp] theorem tick_sp : s.tick.sp = s.sp := rfl
@[simp] theorem tick_dt : s.tick.dt = countDown s.dt := rfl
@[simp] theorem tick_st : s.tick.st = countDown s.st := rfl
@[simp] theorem tick_fb : s.tick.fb = s.fb := rfl
@[simp] theorem tick_dirty : s.tick.dirty = s.dirty := rfl
@[simp] theorem tick_keys : s.tick.keys = s.keys := rfl
@[simp] theorem tick_fault : s.tick.fault = s.fault := rfl
@[simp] theorem tick_config : s.tick.config = s.config := rfl
@[simp] theorem tick_draws : s.tick.draws = s.draws := rfl

/-! ### What `reg` reads is untouched by the updates of other fields -/

@[simp] theorem reg_setI (a : Word) (y : Reg) : (s.setI a).reg y = s.reg y := rfl
@[simp] theorem reg_setPc (a : Word) (y : Reg) : (s.setPc a).reg y = s.reg y := rfl
@[simp] theorem reg_setStack (k : Nat) (a : Word) (y : Reg) : (s.setStack k a).reg y = s.reg y := rfl
@[simp] theorem reg_setSp (k : Fin 17) (y : Reg) : (s.setSp k).reg y = s.reg y := rfl
@[simp] theorem reg_setDt (b : Byte) (y : Reg) : (s.setDt b).reg y = s.reg y := rfl
@[simp] theorem reg_setSt (b : Byte) (y : Reg) : (s.setSt b).reg y = s.reg y := rfl
@[simp] theorem reg_writeByte (a : Word) (b : Byte) (y : Reg) : (s.writeByte a b).reg y = s.reg y := rfl
@[simp] theorem reg_setFb (f : Framebuffer) (y : Reg) : (s.setFb f).reg y = s.reg y := rfl
@[simp] theorem reg_setDirty (d : Bool) (y : Reg) : (s.setDirty d).reg y = s.reg y := rfl
@[simp] theorem reg_setKey (k : BitVec 4) (d : Bool) (y : Reg) : (s.setKey k d).reg y = s.reg y := rfl
@[simp] theorem reg_setFault (r : Option FaultRecord) (y : Reg) : (s.setFault r).reg y = s.reg y := rfl
@[simp] theorem reg_setDraws (n : Nat) (y : Reg) : (s.setDraws n).reg y = s.reg y := rfl
@[simp] theorem reg_advance (y : Reg) : (s.advance).reg y = s.reg y := rfl
@[simp] theorem reg_skip (y : Reg) : (s.skip).reg y = s.reg y := rfl
@[simp] theorem reg_tick (y : Reg) : (s.tick).reg y = s.reg y := rfl

/-! ### What `key` reads is untouched by the updates of other fields -/

@[simp] theorem key_setReg (x : Reg) (b : Byte) (j : BitVec 4) : (s.setReg x b).key j = s.key j := rfl
@[simp] theorem key_setI (a : Word) (j : BitVec 4) : (s.setI a).key j = s.key j := rfl
@[simp] theorem key_setPc (a : Word) (j : BitVec 4) : (s.setPc a).key j = s.key j := rfl
@[simp] theorem key_setStack (k : Nat) (a : Word) (j : BitVec 4) : (s.setStack k a).key j = s.key j := rfl
@[simp] theorem key_setSp (k : Fin 17) (j : BitVec 4) : (s.setSp k).key j = s.key j := rfl
@[simp] theorem key_setDt (b : Byte) (j : BitVec 4) : (s.setDt b).key j = s.key j := rfl
@[simp] theorem key_setSt (b : Byte) (j : BitVec 4) : (s.setSt b).key j = s.key j := rfl
@[simp] theorem key_writeByte (a : Word) (b : Byte) (j : BitVec 4) : (s.writeByte a b).key j = s.key j := rfl
@[simp] theorem key_setFb (f : Framebuffer) (j : BitVec 4) : (s.setFb f).key j = s.key j := rfl
@[simp] theorem key_setDirty (d : Bool) (j : BitVec 4) : (s.setDirty d).key j = s.key j := rfl
@[simp] theorem key_setFault (r : Option FaultRecord) (j : BitVec 4) : (s.setFault r).key j = s.key j := rfl
@[simp] theorem key_setDraws (n : Nat) (j : BitVec 4) : (s.setDraws n).key j = s.key j := rfl
@[simp] theorem key_advance (j : BitVec 4) : (s.advance).key j = s.key j := rfl
@[simp] theorem key_skip (j : BitVec 4) : (s.skip).key j = s.key j := rfl
@[simp] theorem key_tick (j : BitVec 4) : (s.tick).key j = s.key j := rfl

/-! ### What `readByte` reads is untouched by the updates of other fields -/

@[simp] theorem readByte_setReg (x : Reg) (b : Byte) (c : Word) : (s.setReg x b).readByte c = s.readByte c := rfl
@[simp] theorem readByte_setI (a : Word) (c : Word) : (s.setI a).readByte c = s.readByte c := rfl
@[simp] theorem readByte_setPc (a : Word) (c : Word) : (s.setPc a).readByte c = s.readByte c := rfl
@[simp] theorem readByte_setStack (k : Nat) (a : Word) (c : Word) : (s.setStack k a).readByte c = s.readByte c := rfl
@[simp] theorem readByte_setSp (k : Fin 17) (c : Word) : (s.setSp k).readByte c = s.readByte c := rfl
@[simp] theorem readByte_setDt (b : Byte) (c : Word) : (s.setDt b).readByte c = s.readByte c := rfl
@[simp] theorem readByte_setSt (b : Byte) (c : Word) : (s.setSt b).readByte c = s.readByte c := rfl
@[simp] theorem readByte_setFb (f : Framebuffer) (c : Word) : (s.setFb f).readByte c = s.readByte c := rfl
@[simp] theorem readByte_setDirty (d : Bool) (c : Word) : (s.setDirty d).readByte c = s.readByte c := rfl
@[simp] theorem readByte_setKey (k : BitVec 4) (d : Bool) (c : Word) : (s.setKey k d).readByte c = s.readByte c := rfl
@[simp] theorem readByte_setFault (r : Option FaultRecord) (c : Word) : (s.setFault r).readByte c = s.readByte c := rfl
@[simp] theorem readByte_setDraws (n : Nat) (c : Word) : (s.setDraws n).readByte c = s.readByte c := rfl
@[simp] theorem readByte_advance (c : Word) : (s.advance).readByte c = s.readByte c := rfl
@[simp] theorem readByte_skip (c : Word) : (s.skip).readByte c = s.readByte c := rfl
@[simp] theorem readByte_tick (c : Word) : (s.tick).readByte c = s.readByte c := rfl

/-! ### What `stackAt` reads is untouched by the updates of other fields -/

@[simp] theorem stackAt_setReg (x : Reg) (b : Byte) (j : Nat) : (s.setReg x b).stackAt j = s.stackAt j := rfl
@[simp] theorem stackAt_setI (a : Word) (j : Nat) : (s.setI a).stackAt j = s.stackAt j := rfl
@[simp] theorem stackAt_setPc (a : Word) (j : Nat) : (s.setPc a).stackAt j = s.stackAt j := rfl
@[simp] theorem stackAt_setSp (k : Fin 17) (j : Nat) : (s.setSp k).stackAt j = s.stackAt j := rfl
@[simp] theorem stackAt_setDt (b : Byte) (j : Nat) : (s.setDt b).stackAt j = s.stackAt j := rfl
@[simp] theorem stackAt_setSt (b : Byte) (j : Nat) : (s.setSt b).stackAt j = s.stackAt j := rfl
@[simp] theorem stackAt_writeByte (a : Word) (b : Byte) (j : Nat) : (s.writeByte a b).stackAt j = s.stackAt j := rfl
@[simp] theorem stackAt_setFb (f : Framebuffer) (j : Nat) : (s.setFb f).stackAt j = s.stackAt j := rfl
@[simp] theorem stackAt_setDirty (d : Bool) (j : Nat) : (s.setDirty d).stackAt j = s.stackAt j := rfl
@[simp] theorem stackAt_setKey (k : BitVec 4) (d : Bool) (j : Nat) : (s.setKey k d).stackAt j = s.stackAt j := rfl
@[simp] theorem stackAt_setFault (r : Option FaultRecord) (j : Nat) : (s.setFault r).stackAt j = s.stackAt j := rfl
@[simp] theorem stackAt_setDraws (n : Nat) (j : Nat) : (s.setDraws n).stackAt j = s.stackAt j := rfl
@[simp] theorem stackAt_advance (j : Nat) : (s.advance).stackAt j = s.stackAt j := rfl
@[simp] theorem stackAt_skip (j : Nat) : (s.skip).stackAt j = s.stackAt j := rfl
@[simp] theorem stackAt_tick (j : Nat) : (s.tick).stackAt j = s.stackAt j := rfl

/-! ### What `pixel` reads is untouched by the updates of other fields -/

@[simp] theorem pixel_setReg (x : Reg) (b : Byte) (col row : Nat) : (s.setReg x b).pixel col row = s.pixel col row := rfl
@[simp] theorem pixel_setI (a : Word) (col row : Nat) : (s.setI a).pixel col row = s.pixel col row := rfl
@[simp] theorem pixel_setPc (a : Word) (col row : Nat) : (s.setPc a).pixel col row = s.pixel col row := rfl
@[simp] theorem pixel_setStack (k : Nat) (a : Word) (col row : Nat) : (s.setStack k a).pixel col row = s.pixel col row := rfl
@[simp] theorem pixel_setSp (k : Fin 17) (col row : Nat) : (s.setSp k).pixel col row = s.pixel col row := rfl
@[simp] theorem pixel_setDt (b : Byte) (col row : Nat) : (s.setDt b).pixel col row = s.pixel col row := rfl
@[simp] theorem pixel_setSt (b : Byte) (col row : Nat) : (s.setSt b).pixel col row = s.pixel col row := rfl
@[simp] theorem pixel_writeByte (a : Word) (b : Byte) (col row : Nat) : (s.writeByte a b).pixel col row = s.pixel col row := rfl
@[simp] theorem pixel_setDirty (d : Bool) (col row : Nat) : (s.setDirty d).pixel col row = s.pixel col row := rfl
@[simp] theorem pixel_setKey (k : BitVec 4) (d : Bool) (col row : Nat) : (s.setKey k d).pixel col row = s.pixel col row := rfl
@[simp] theorem pixel_setFault (r : Option FaultRecord) (col row : Nat) : (s.setFault r).pixel col row = s.pixel col row := rfl
@[simp] theorem pixel_setDraws (n : Nat) (col row : Nat) : (s.setDraws n).pixel col row = s.pixel col row := rfl
@[simp] theorem pixel_advance (col row : Nat) : (s.advance).pixel col row = s.pixel col row := rfl
@[simp] theorem pixel_skip (col row : Nat) : (s.skip).pixel col row = s.pixel col row := rfl
@[simp] theorem pixel_tick (col row : Nat) : (s.tick).pixel col row = s.pixel col row := rfl

/-! ### What the readers read back -/

theorem reg_setReg (x y : Reg) (b : Byte) : (s.setReg x b).reg y = if y = x then b else s.reg y := by
  simp only [State.reg, State.setReg, Vector.getElem_set, BitVec.toNat_inj, eq_comm (a := x)]

@[simp] theorem reg_setReg_self (x : Reg) (b : Byte) : (s.setReg x b).reg x = b := by simp [reg_setReg]

theorem reg_setReg_ne {x y : Reg} (b : Byte) (h : y ≠ x) : (s.setReg x b).reg y = s.reg y := by
  simp [reg_setReg, h]

theorem key_setKey (k j : BitVec 4) (d : Bool) : (s.setKey k d).key j = if j = k then d else s.key j := by
  simp only [State.key, State.setKey, Vector.getElem_set, BitVec.toNat_inj, eq_comm (a := k)]

theorem stackAt_setStack (k j : Nat) (a : Word) :
    (s.setStack k a).stackAt j = if j = k ∧ k < 16 then a else s.stackAt j := by
  simp only [State.stackAt, State.setStack, Vector.getElem?_setIfInBounds]
  by_cases h : k = j
  · subst h
    by_cases h2 : k < 16 <;> simp [h2]
  · simp [h, Ne.symm h]

@[simp] theorem pixel_setFb (f : Framebuffer) (col row : Nat) :
    (s.setFb f).pixel col row = Framebuffer.pixel f col row := rfl

end Sys2Proof.Laws
end

