-- ==== Sys2Proof/Laws/Ops.lean ====
section
/-! SUPPORT. One lemma per shared operation, saying once everything it does: memory access, the call stack, skips, the
result and flag writes, the block transfers, and the two ways an instruction ends. -/

namespace Sys2Proof.Laws

open Sys2Proof.Machine

variable (s : State)

/-! ### Memory access through the state -/

/-- All that a byte store does to what is read. -/
theorem readByte_writeByte (a c : Word) (b : Byte) :
    (s.writeByte a b).readByte c = if cellOf c = cellOf a then b else s.readByte c := by
  simp [State.readByte, read_write]

theorem wf_writeByte {s : State} (h : Memory.wf s.mem = true) (a : Word) (b : Byte) :
    Memory.wf (s.writeByte a b).mem = true :=
  wf_write h (cellOf_lt a) b

theorem cellAddr_toNat (base : Word) (k : Nat) : (cellAddr base k).toNat = (base.toNat + k) % 65536 := by
  simp [cellAddr, BitVec.toNat_add]

/-- Cell number k of an access from `base` (R54). -/
theorem cellOf_cellAddr (base : Word) (k : Nat) : cellOf (cellAddr base k) = (base.toNat + k) % 4096 := by
  rw [cellOf_eq, cellAddr_toNat]
  omega

/-- The cells of one access of at most 4096 cells are distinct. -/
theorem cellOf_cellAddr_ne (base : Word) {j k : Nat} (hj : j < 4096) (hk : k < 4096) (h : j ≠ k) :
    cellOf (cellAddr base j) ≠ cellOf (cellAddr base k) := by
  simp only [cellOf_cellAddr]
  omega

/-! ### Values of PC and I -/

/-- PC after the default advance (R82). -/
theorem advance_pc_toNat : (mask12 (s.pc + 2#16)).toNat = (s.pc.toNat + 2) % 4096 := by
  rw [mask12_toNat, BitVec.toNat_add]
  simp

/-- PC after a taken skip (R90). -/
theorem skip_pc_toNat : (mask12 (mask12 (s.pc + 2#16) + 2#16)).toNat = (s.pc.toNat + 4) % 4096 := by
  rw [mask12_toNat, BitVec.toNat_add, advance_pc_toNat]
  simp

/-- PC after the rollback of the key wait (R182). -/
theorem rollback_pc_toNat : (mask12 (mask12 (s.pc + 2#16) - 2#16)).toNat = s.pc.toNat % 4096 := by
  rw [mask12_toNat, BitVec.toNat_sub, advance_pc_toNat]
  simp
  omega

theorem addrOperand_toNat (nnn : Addr) : (mask12 (addrOperand nnn)).toNat = nnn.toNat := by
  have := nnn.isLt
  rw [mask12_toNat]
  simp [addrOperand]
  omega

theorem relativeTarget_toNat (nnn : Addr) (b : Byte) :
    (mask12 (relativeTarget nnn b)).toNat = (nnn.toNat + b.toNat) % 4096 := by
  have := nnn.isLt
  have := b.isLt
  rw [mask12_toNat, relativeTarget, BitVec.toNat_add]
  simp [addrOperand, byteOffset]

/-- I after ADD I (R151). -/
theorem addOffset_toNat (a : Word) (b : Byte) :
    (mask12 (a + byteOffset b)).toNat = (a.toNat + b.toNat) % 4096 := by
  have := b.isLt
  rw [mask12_toNat, BitVec.toNat_add]
  simp [byteOffset]

/-- I after LD F (R152). -/
theorem glyphAddress_toNat (b : Byte) : (mask12 (glyphAddress b)).toNat = 0x050 + b.toNat % 16 * 5 := by
  rw [mask12_toNat]
  simp [glyphAddress, lowNibble, BitVec.toNat_add, BitVec.toNat_mul, BitVec.extractLsb'_toNat]
  omega

/-! ### The call stack -/

theorem push_of_lt (a : Word) (h : s.sp.val < 16) :
    s.push a = (s.setStack s.sp.val a).setSp ⟨s.sp.val + 1, by omega⟩ := by
  simp [State.push, h]

theorem popToPc_of_pos (h : 0 < s.sp.val) :
    s.popToPc = (s.setSp ⟨s.sp.val - 1, by omega⟩).setPc (s.stackAt (s.sp.val - 1)) := by
  simp [State.popToPc, h]

/-! ### Skips -/

/-- A skip touches PC alone, and says where it goes (R90). -/
theorem skipIf_eq (c : Bool) : s.skipIf c = { s with pc := if c then mask12 (s.pc + 2) else s.pc } := by
  cases c <;> rfl

/-! ### Result and flag -/

/-- All that the two writes do to the registers (R133). -/
theorem reg_writeResultAndFlag (x y : Reg) (result : Byte) (flag : Bool) :
    (s.writeResultAndFlag x result flag).reg y =
      if y = vf then (if x = vf ∧ s.config.vfOrder = .resultLast then result else flagByte flag)
      else if y = x then result else s.reg y := by
  unfold State.writeResultAndFlag
  cases s.config.vfOrder <;> simp only [reg_setReg] <;> by_cases hy : y = vf <;> by_cases hx : x = vf <;>
    simp_all [eq_comm]

/-- The two writes touch V alone. -/
theorem writeResultAndFlag_eq (x : Reg) (result : Byte) (flag : Bool) :
    ∃ v, s.writeResultAndFlag x result flag = { s with v := v } := by
  unfold State.writeResultAndFlag
  cases s.config.vfOrder <;> exact ⟨_, rfl⟩

/-! ### Block transfers -/

/-- The store loop touches memory alone. -/
theorem storeRegs_eq (n : Nat) : ∃ m, s.storeRegs n = { s with mem := m } := by
  induction n with
  | zero => exact ⟨s.mem, rfl⟩
  | succ n ih =>
    obtain ⟨m, hm⟩ := ih
    exact ⟨_, by rw [State.storeRegs, hm]; rfl⟩

/-- The store loop leaves every other cell alone (R154). -/
theorem readByte_storeRegs_other (n : Nat) {a : Word} (h : ∀ k < n, cellOf a ≠ cellOf (cellAddr s.i k)) :
    (s.storeRegs n).readByte a = s.readByte a := by
  induction n with
  | zero => rfl
  | succ n ih =>
    rw [State.storeRegs, readByte_writeByte, if_neg (h n (by omega)), ih fun k hk => h k (by omega)]

/-- The store loop stores V[k] to cell I + k (R154). -/
theorem readByte_storeRegs (n : Nat) (hn : n ≤ 16) {k : Nat} (hk : k < n) :
    (s.storeRegs n).readByte (cellAddr s.i k) = s.reg (BitVec.ofNat 4 k) := by
  induction n with
  | zero => omega
  | succ n ih =>
    rw [State.storeRegs, readByte_writeByte]
    by_cases h : k = n
    · simp [h]
    · rw [if_neg (cellOf_cellAddr_ne _ (by omega) (by omega) h), ih (by omega) (by omega)]

theorem wf_storeRegs {s : State} (h : Memory.wf s.mem = true) (n : Nat) : Memory.wf (s.storeRegs n).mem = true := by
  induction n with
  | zero => exact h
  | succ n ih => exact wf_writeByte ih _ _

/-- The load loop touches V alone. -/
theorem loadRegs_eq (n : Nat) : ∃ v, s.loadRegs n = { s with v := v } := by
  induction n with
  | zero => exact ⟨s.v, rfl⟩
  | succ n ih =>
    obtain ⟨v, hv⟩ := ih
    exact ⟨_, by rw [State.loadRegs, hv]; rfl⟩

/-- All that the load loop does to the registers (R155). -/
theorem reg_loadRegs (n : Nat) (hn : n ≤ 16) (y : Reg) :
    (s.loadRegs n).reg y = if y.toNat < n then s.readByte (cellAddr s.i y.toNat) else s.reg y := by
  induction n with
  | zero => simp [State.loadRegs]
  | succ n ih =>
    rw [State.loadRegs, reg_setReg, ih (by omega)]
    by_cases h : y.toNat = n
    · have hy : y = BitVec.ofNat 4 n := by
        apply BitVec.eq_of_toNat_eq
        simp [BitVec.toNat_ofNat]
        omega
      rw [if_pos hy, if_pos (by omega), h]
    · have hy : y ≠ BitVec.ofNat 4 n := by
        intro hy
        apply h
        rw [hy, BitVec.toNat_ofNat]
        omega
      rw [if_neg hy]
      by_cases h2 : y.toNat < n
      · rw [if_pos h2, if_pos (by omega)]
      · rw [if_neg h2, if_neg (by omega)]

/-! ### The fields each shared operation leaves alone -/

@[simp] theorem skipIf_mem (c : Bool) : (s.skipIf c).mem = s.mem := by
  rw [skipIf_eq]

@[simp] theorem skipIf_v (c : Bool) : (s.skipIf c).v = s.v := by
  rw [skipIf_eq]

@[simp] theorem skipIf_i (c : Bool) : (s.skipIf c).i = s.i := by
  rw [skipIf_eq]

@[simp] theorem skipIf_stack (c : Bool) : (s.skipIf c).stack = s.stack := by
  rw [skipIf_eq]

@[simp] theorem skipIf_sp (c : Bool) : (s.skipIf c).sp = s.sp := by
  rw [skipIf_eq]

@[simp] theorem skipIf_dt (c : Bool) : (s.skipIf c).dt = s.dt := by
  rw [skipIf_eq]

@[simp] theorem skipIf_st (c : Bool) : (s.skipIf c).st = s.st := by
  rw [skipIf_eq]

@[simp] theorem skipIf_fb (c : Bool) : (s.skipIf c).fb = s.fb := by
  rw [skipIf_eq]

@[simp] theorem skipIf_dirty (c : Bool) : (s.skipIf c).dirty = s.dirty := by
  rw [skipIf_eq]

@[simp] theorem skipIf_keys (c : Bool) : (s.skipIf c).keys = s.keys := by
  rw [skipIf_eq]

@[simp] theorem skipIf_fault (c : Bool) : (s.skipIf c).fault = s.fault := by
  rw [skipIf_eq]

@[simp] theorem skipIf_config (c : Bool) : (s.skipIf c).config = s.config := by
  rw [skipIf_eq]

@[simp] theorem skipIf_draws (c : Bool) : (s.skipIf c).draws = s.draws := by
  rw [skipIf_eq]

@[simp] theorem push_mem (a : Word) : (s.push a).mem = s.mem := by
  unfold State.push
  split <;> rfl

@[simp] theorem push_v (a : Word) : (s.push a).v = s.v := by
  unfold State.push
  split <;> rfl

@[simp] theorem push_i (a : Word) : (s.push a).i = s.i := by
  unfold State.push
  split <;> rfl

@[simp] theorem push_pc (a : Word) : (s.push a).pc = s.pc := by
  unfold State.push
  split <;> rfl

@[simp] theorem push_dt (a : Word) : (s.push a).dt = s.dt := by
  unfold State.push
  split <;> rfl

@[simp] theorem push_st (a : Word) : (s.push a).st = s.st := by
  unfold State.push
  split <;> rfl

@[simp] theorem push_fb (a : Word) : (s.push a).fb = s.fb := by
  unfold State.push
  split <;> rfl

@[simp] theorem push_dirty (a : Word) : (s.push a).dirty = s.dirty := by
  unfold State.push
  split <;> rfl

@[simp] theorem push_keys (a : Word) : (s.push a).keys = s.keys := by
  unfold State.push
  split <;> rfl

@[simp] theorem push_fault (a : Word) : (s.push a).fault = s.fault := by
  unfold State.push
  split <;> rfl

@[simp] theorem push_config (a : Word) : (s.push a).config = s.config := by
  unfold State.push
  split <;> rfl

@[simp] theorem push_draws (a : Word) : (s.push a).draws = s.draws := by
  unfold State.push
  split <;> rfl

@[simp] theorem popToPc_mem : (s.popToPc).mem = s.mem := by
  unfold State.popToPc
  split <;> rfl

@[simp] theorem popToPc_v : (s.popToPc).v = s.v := by
  unfold State.popToPc
  split <;> rfl

@[simp] theorem popToPc_i : (s.popToPc).i = s.i := by
  unfold State.popToPc
  split <;> rfl

@[simp] theorem popToPc_stack : (s.popToPc).stack = s.stack := by
  unfold State.popToPc
  split <;> rfl

@[simp] theorem popToPc_dt : (s.popToPc).dt = s.dt := by
  unfold State.popToPc
  split <;> rfl

@[simp] theorem popToPc_st : (s.popToPc).st = s.st := by
  unfold State.popToPc
  split <;> rfl

@[simp] theorem popToPc_fb : (s.popToPc).fb = s.fb := by
  unfold State.popToPc
  split <;> rfl

@[simp] theorem popToPc_dirty : (s.popToPc).dirty = s.dirty := by
  unfold State.popToPc
  split <;> rfl

@[simp] theorem popToPc_keys : (s.popToPc).keys = s.keys := by
  unfold State.popToPc
  split <;> rfl

@[simp] theorem popToPc_fault : (s.popToPc).fault = s.fault := by
  unfold State.popToPc
  split <;> rfl

@[simp] theorem popToPc_config : (s.popToPc).config = s.config := by
  unfold State.popToPc
  split <;> rfl

@[simp] theorem popToPc_draws : (s.popToPc).draws = s.draws := by
  unfold State.popToPc
  split <;> rfl

@[simp] theorem writeResultAndFlag_mem (x : Reg) (result : Byte) (flag : Bool) : (s.writeResultAndFlag x result flag).mem = s.mem := by
  obtain ⟨v, h⟩ := writeResultAndFlag_eq s x result flag
  rw [h]

@[simp] theorem writeResultAndFlag_i (x : Reg) (result : Byte) (flag : Bool) : (s.writeResultAndFlag x result flag).i = s.i := by
  obtain ⟨v, h⟩ := writeResultAndFlag_eq s x result flag
  rw [h]

@[simp] theorem writeResultAndFlag_pc (x : Reg) (result : Byte) (flag : Bool) : (s.writeResultAndFlag x result flag).pc = s.pc := by
  obtain ⟨v, h⟩ := writeResultAndFlag_eq s x result flag
  rw [h]

@[simp] theorem writeResultAndFlag_stack (x : Reg) (result : Byte) (flag : Bool) : (s.writeResultAndFlag x result flag).stack = s.stack := by
  obtain ⟨v, h⟩ := writeResultAndFlag_eq s x result flag
  rw [h]

@[simp] theorem writeResultAndFlag_sp (x : Reg) (result : Byte) (flag : Bool) : (s.writeResultAndFlag x result flag).sp = s.sp := by
  obtain ⟨v, h⟩ := writeResultAndFlag_eq s x result flag
  rw [h]

@[simp] theorem writeResultAndFlag_dt (x : Reg) (result : Byte) (flag : Bool) : (s.writeResultAndFlag x result flag).dt = s.dt := by
  obtain ⟨v, h⟩ := writeResultAndFlag_eq s x result flag
  rw [h]

@[simp] theorem writeResultAndFlag_st (x : Reg) (result : Byte) (flag : Bool) : (s.writeResultAndFlag x result flag).st = s.st := by
  obtain ⟨v, h⟩ := writeResultAndFlag_eq s x result flag
  rw [h]

@[simp] theorem writeResultAndFlag_fb (x : Reg) (result : Byte) (flag : Bool) : (s.writeResultAndFlag x result flag).fb = s.fb := by
  obtain ⟨v, h⟩ := writeResultAndFlag_eq s x result flag
  rw [h]

@[simp] theorem writeResultAndFlag_dirty (x : Reg) (result : Byte) (flag : Bool) : (s.writeResultAndFlag x result flag).dirty = s.dirty := by
  obtain ⟨v, h⟩ := writeResultAndFlag_eq s x result flag
  rw [h]

@[simp] theorem writeResultAndFlag_keys (x : Reg) (result : Byte) (flag : Bool) : (s.writeResultAndFlag x result flag).keys = s.keys := by
  obtain ⟨v, h⟩ := writeResultAndFlag_eq s x result flag
  rw [h]

@[simp] theorem writeResultAndFlag_fault (x : Reg) (result : Byte) (flag : Bool) : (s.writeResultAndFlag x result flag).fault = s.fault := by
  obtain ⟨v, h⟩ := writeResultAndFlag_eq s x result flag
  rw [h]

@[simp] theorem writeResultAndFlag_config (x : Reg) (result : Byte) (flag : Bool) : (s.writeResultAndFlag x result flag).config = s.config := by
  obtain ⟨v, h⟩ := writeResultAndFlag_eq s x result flag
  rw [h]

@[simp] theorem writeResultAndFlag_draws (x : Reg) (result : Byte) (flag : Bool) : (s.writeResultAndFlag x result flag).draws = s.draws := by
  obtain ⟨v, h⟩ := writeResultAndFlag_eq s x result flag
  rw [h]

@[simp] theorem storeRegs_v (n : Nat) : (s.storeRegs n).v = s.v := by
  obtain ⟨m, h⟩ := storeRegs_eq s n
  rw [h]

@[simp] theorem storeRegs_i (n : Nat) : (s.storeRegs n).i = s.i := by
  obtain ⟨m, h⟩ := storeRegs_eq s n
  rw [h]

@[simp] theorem storeRegs_pc (n : Nat) : (s.storeRegs n).pc = s.pc := by
  obtain ⟨m, h⟩ := storeRegs_eq s n
  rw [h]

@[simp] theorem storeRegs_stack (n : Nat) : (s.storeRegs n).stack = s.stack := by
  obtain ⟨m, h⟩ := storeRegs_eq s n
  rw [h]

@[simp] theorem storeRegs_sp (n : Nat) : (s.storeRegs n).sp = s.sp := by
  obtain ⟨m, h⟩ := storeRegs_eq s n
  rw [h]

@[simp] theorem storeRegs_dt (n : Nat) : (s.storeRegs n).dt = s.dt := by
  obtain ⟨m, h⟩ := storeRegs_eq s n
  rw [h]

@[simp] theorem storeRegs_st (n : Nat) : (s.storeRegs n).st = s.st := by
  obtain ⟨m, h⟩ := storeRegs_eq s n
  rw [h]

@[simp] theorem storeRegs_fb (n : Nat) : (s.storeRegs n).fb = s.fb := by
  obtain ⟨m, h⟩ := storeRegs_eq s n
  rw [h]

@[simp] theorem storeRegs_dirty (n : Nat) : (s.storeRegs n).dirty = s.dirty := by
  obtain ⟨m, h⟩ := storeRegs_eq s n
  rw [h]

@[simp] theorem storeRegs_keys (n : Nat) : (s.storeRegs n).keys = s.keys := by
  obtain ⟨m, h⟩ := storeRegs_eq s n
  rw [h]

@[simp] theorem storeRegs_fault (n : Nat) : (s.storeRegs n).fault = s.fault := by
  obtain ⟨m, h⟩ := storeRegs_eq s n
  rw [h]

@[simp] theorem storeRegs_config (n : Nat) : (s.storeRegs n).config = s.config := by
  obtain ⟨m, h⟩ := storeRegs_eq s n
  rw [h]

@[simp] theorem storeRegs_draws (n : Nat) : (s.storeRegs n).draws = s.draws := by
  obtain ⟨m, h⟩ := storeRegs_eq s n
  rw [h]

@[simp] theorem loadRegs_mem (n : Nat) : (s.loadRegs n).mem = s.mem := by
  obtain ⟨v, h⟩ := loadRegs_eq s n
  rw [h]

@[simp] theorem loadRegs_i (n : Nat) : (s.loadRegs n).i = s.i := by
  obtain ⟨v, h⟩ := loadRegs_eq s n
  rw [h]

@[simp] theorem loadRegs_pc (n : Nat) : (s.loadRegs n).pc = s.pc := by
  obtain ⟨v, h⟩ := loadRegs_eq s n
  rw [h]

@[simp] theorem loadRegs_stack (n : Nat) : (s.loadRegs n).stack = s.stack := by
  obtain ⟨v, h⟩ := loadRegs_eq s n
  rw [h]

@[simp] theorem loadRegs_sp (n : Nat) : (s.loadRegs n).sp = s.sp := by
  obtain ⟨v, h⟩ := loadRegs_eq s n
  rw [h]

@[simp] theorem loadRegs_dt (n : Nat) : (s.loadRegs n).dt = s.dt := by
  obtain ⟨v, h⟩ := loadRegs_eq s n
  rw [h]

@[simp] theorem loadRegs_st (n : Nat) : (s.loadRegs n).st = s.st := by
  obtain ⟨v, h⟩ := loadRegs_eq s n
  rw [h]

@[simp] theorem loadRegs_fb (n : Nat) : (s.loadRegs n).fb = s.fb := by
  obtain ⟨v, h⟩ := loadRegs_eq s n
  rw [h]

@[simp] theorem loadRegs_dirty (n : Nat) : (s.loadRegs n).dirty = s.dirty := by
  obtain ⟨v, h⟩ := loadRegs_eq s n
  rw [h]

@[simp] theorem loadRegs_keys (n : Nat) : (s.loadRegs n).keys = s.keys := by
  obtain ⟨v, h⟩ := loadRegs_eq s n
  rw [h]

@[simp] theorem loadRegs_fault (n : Nat) : (s.loadRegs n).fault = s.fault := by
  obtain ⟨v, h⟩ := loadRegs_eq s n
  rw [h]

@[simp] theorem loadRegs_config (n : Nat) : (s.loadRegs n).config = s.config := by
  obtain ⟨v, h⟩ := loadRegs_eq s n
  rw [h]

@[simp] theorem loadRegs_draws (n : Nat) : (s.loadRegs n).draws = s.draws := by
  obtain ⟨v, h⟩ := loadRegs_eq s n
  rw [h]

/-! ### How an instruction ends -/

/-- A timer after a tick: one less, and never below 0 (R86). -/
theorem countDown_toNat (b : Byte) : (countDown b).toNat = b.toNat - 1 := by
  unfold countDown
  split
  · simp_all
  · rename_i h
    have : b.toNat ≠ 0 := fun h0 => h (BitVec.eq_of_toNat_eq h0)
    rw [BitVec.toNat_sub_of_le]
    · rfl
    · rw [BitVec.le_def]
      show 1 ≤ b.toNat
      omega

/-- An instruction that retires answers a next state: the body's, ticked. -/
theorem retire_next (body : State → State) (s : State) : retire body s = .next (body s.advance).tick := rfl

/-- A fault answers a next state that differs in the latch alone (R203). -/
theorem takeFault_next (f : Fault) (s : State) :
    takeFault f s = .next { s with fault := some { code := f, pc := s.pc } } := rfl

end Sys2Proof.Laws
end

