-- ==== Sys2Proof/Laws/Display.lean ====
section
/-! SUPPORT. What the loops of DRW do (R171): which pixels they turn over, when they note a collision and when they touch
a pixel. The pixels of one sprite are distinct, so each is turned over at most once. -/

namespace Sys2Proof.Laws

open Sys2Proof.Machine

/-! ### One pixel -/

/-- All that turning over one pixel does (R20, R171). -/
theorem pixel_flip (f : Framebuffer) {c r : Nat} (hc : c < 64) (hr : r < 32) (col row : Nat) :
    Framebuffer.pixel (Framebuffer.flip f c r) col row =
      if col = c ∧ row = r then !Framebuffer.pixel f col row else Framebuffer.pixel f col row := by
  unfold Framebuffer.pixel Framebuffer.flip
  rw [Vector.getElem?_setIfInBounds]
  by_cases h : r = row
  · subst h
    rw [if_pos rfl, if_pos hr, Option.getD_some, BitVec.getLsbD_xor, BitVec.getLsbD_shiftLeft]
    by_cases h2 : col = c
    · subst h2
      simp [hc]
    · rw [if_neg (by simp [h2])]
      by_cases h3 : col < 64 <;> by_cases h4 : col < c <;> simp_all
      have h5 : col - c ≠ 0 := by omega
      simp [h5]
  · rw [if_neg h, if_neg (by simp [Ne.symm h])]

theorem spriteCol_lt (x0 : Byte) (j : Nat) : spriteCol x0 j < 64 := Nat.mod_lt _ (by decide)

theorem spriteRow_lt (y0 : Byte) (k : Nat) : spriteRow y0 k < 32 := Nat.mod_lt _ (by decide)

theorem spriteCol_ne (x0 : Byte) {i j : Nat} (hi : i < 8) (hj : j < 8) (h : i ≠ j) :
    spriteCol x0 i ≠ spriteCol x0 j := by
  unfold spriteCol
  omega

theorem spriteRow_ne (y0 : Byte) {i j : Nat} (hi : i < 16) (hj : j < 16) (h : i ≠ j) :
    spriteRow y0 i ≠ spriteRow y0 j := by
  unfold spriteRow
  omega

/-! ### One row of a sprite -/

/-- One of the first `n` bits of the row byte `b` is set and falls on column `col`. -/
def RowHits (x0 b : Byte) (n col : Nat) : Prop := ∃ j < n, spriteBit b j = true ∧ col = spriteCol x0 j

theorem rowHits_succ (x0 b : Byte) (n col : Nat) :
    RowHits x0 b (n + 1) col ↔ RowHits x0 b n col ∨ (spriteBit b n = true ∧ col = spriteCol x0 n) := by
  constructor
  · rintro ⟨j, hj, h⟩
    by_cases hn : j = n
    · exact .inr (hn ▸ h)
    · exact .inl ⟨j, by omega, h⟩
  · rintro (⟨j, hj, h⟩ | h)
    · exact ⟨j, by omega, h⟩
    · exact ⟨n, by omega, h⟩

/-- A bit does not fall on the column of an earlier bit of its row. -/
theorem rowHits_fresh (x0 b : Byte) {n : Nat} (hn : n < 8) : ¬ RowHits x0 b n (spriteCol x0 n) := by
  rintro ⟨j, hj, -, h⟩
  exact spriteCol_ne x0 hn (by omega) (by omega) h

/-- A pixel is turned over by a row exactly when the row hits it. -/
theorem pixel_drawRow (x0 y0 b : Byte) (k : Nat) (c : Canvas) (col row : Nat) {n : Nat} (hn : n ≤ 8) :
    (row = spriteRow y0 k ∧ RowHits x0 b n col →
      Framebuffer.pixel (drawRow x0 y0 b k n c).fb col row = !Framebuffer.pixel c.fb col row) ∧
    (¬ (row = spriteRow y0 k ∧ RowHits x0 b n col) →
      Framebuffer.pixel (drawRow x0 y0 b k n c).fb col row = Framebuffer.pixel c.fb col row) := by
  induction n with
  | zero => simp [drawRow, RowHits]
  | succ n ih =>
    have ih := ih (by omega)
    have fresh := rowHits_fresh x0 b (n := n) (by omega)
    rw [rowHits_succ]
    simp only [drawRow, drawBit]
    by_cases hb : spriteBit b n = true
    · simp only [hb, if_true, Canvas.flip, pixel_flip _ (spriteCol_lt x0 n) (spriteRow_lt y0 k)]
      by_cases hc : col = spriteCol x0 n
      · subst hc
        by_cases hr : row = spriteRow y0 k <;> simp_all
      · simp_all
    · simp_all

/-- A row notes a collision exactly when a bit of it falls on a pixel that is on. -/
theorem collision_drawRow (x0 y0 b : Byte) (k : Nat) (c : Canvas) {n : Nat} (hn : n ≤ 8) :
    (drawRow x0 y0 b k n c).collision = true ↔
      c.collision = true ∨
        ∃ col, RowHits x0 b n col ∧ Framebuffer.pixel c.fb col (spriteRow y0 k) = true := by
  induction n with
  | zero => simp [drawRow, RowHits]
  | succ n ih =>
    have ih := ih (by omega)
    have fresh := rowHits_fresh x0 b (n := n) (by omega)
    have same := (pixel_drawRow x0 y0 b k c (spriteCol x0 n) (spriteRow y0 k) (n := n) (by omega)).2
      (fun h => fresh h.2)
    simp only [drawRow, drawBit, rowHits_succ]
    by_cases hb : spriteBit b n = true
    · simp only [hb, if_true, Canvas.flip, Bool.or_eq_true, ih, same, true_and]
      constructor
      · rintro ((h | ⟨col, h, hp⟩) | h)
        · exact .inl h
        · exact .inr ⟨col, .inl h, hp⟩
        · exact .inr ⟨_, .inr rfl, h⟩
      · rintro (h | ⟨col, h | h, hp⟩)
        · exact .inl (.inl h)
        · exact .inl (.inr ⟨col, h, hp⟩)
        · exact .inr (h ▸ hp)
    · simp [hb, ih]

/-- A row touches a pixel exactly when it hits one. -/
theorem touched_drawRow (x0 y0 b : Byte) (k : Nat) (c : Canvas) (n : Nat) :
    (drawRow x0 y0 b k n c).touched = true ↔ c.touched = true ∨ ∃ col, RowHits x0 b n col := by
  induction n with
  | zero => simp [drawRow, RowHits]
  | succ n ih =>
    simp only [drawRow, drawBit, rowHits_succ]
    by_cases hb : spriteBit b n = true
    · simp [hb, Canvas.flip]
    · simp [hb, ih]

/-! ### A sprite -/

/-- Pixel (col, row) lies under a set bit of one of the first `n` rows of the sprite at I. -/
def SpriteHits (s : State) (x0 y0 : Byte) (n col row : Nat) : Prop :=
  ∃ k < n, row = spriteRow y0 k ∧ RowHits x0 (s.readByte (cellAddr s.i k)) 8 col

theorem spriteHits_succ (s : State) (x0 y0 : Byte) (n col row : Nat) :
    SpriteHits s x0 y0 (n + 1) col row ↔
      SpriteHits s x0 y0 n col row ∨
        (row = spriteRow y0 n ∧ RowHits x0 (s.readByte (cellAddr s.i n)) 8 col) := by
  constructor
  · rintro ⟨k, hk, h⟩
    by_cases hn : k = n
    · exact .inr (hn ▸ h)
    · exact .inl ⟨k, by omega, h⟩
  · rintro (⟨k, hk, h⟩ | h)
    · exact ⟨k, by omega, h⟩
    · exact ⟨n, by omega, h⟩

theorem spriteHits_fresh (s : State) (x0 y0 : Byte) {n : Nat} (hn : n < 16) (col : Nat) :
    ¬ SpriteHits s x0 y0 n col (spriteRow y0 n) := by
  rintro ⟨k, hk, h, -⟩
  exact spriteRow_ne y0 hn (by omega) (by omega) h

/-- A pixel is turned over by a sprite exactly when the sprite hits it (R171). -/
theorem pixel_drawRows (s : State) (x0 y0 : Byte) (col row : Nat) {n : Nat} (hn : n ≤ 15) :
    (SpriteHits s x0 y0 n col row →
      Framebuffer.pixel (drawRows s x0 y0 n).fb col row = !s.pixel col row) ∧
    (¬ SpriteHits s x0 y0 n col row →
      Framebuffer.pixel (drawRows s x0 y0 n).fb col row = s.pixel col row) := by
  induction n with
  | zero => simp [drawRows, SpriteHits, State.pixel]
  | succ n ih =>
    have ih := ih (by omega)
    have fresh := spriteHits_fresh s x0 y0 (n := n) (by omega) col
    have here := pixel_drawRow x0 y0 (s.readByte (cellAddr s.i n)) n (drawRows s x0 y0 n) col row (n := 8) (by omega)
    rw [spriteHits_succ]
    simp only [drawRows]
    by_cases hr : row = spriteRow y0 n
    · subst hr
      by_cases hh : RowHits x0 (s.readByte (cellAddr s.i n)) 8 col <;> simp_all
    · simp_all

/-- A sprite notes a collision exactly when it hits a pixel that is on (R171). -/
theorem collision_drawRows (s : State) (x0 y0 : Byte) {n : Nat} (hn : n ≤ 15) :
    (drawRows s x0 y0 n).collision = true ↔
      ∃ col row, SpriteHits s x0 y0 n col row ∧ s.pixel col row = true := by
  induction n with
  | zero => simp [drawRows, SpriteHits]
  | succ n ih =>
    have ih := ih (by omega)
    have same : ∀ col, Framebuffer.pixel (drawRows s x0 y0 n).fb col (spriteRow y0 n) =
        s.pixel col (spriteRow y0 n) := fun col =>
      (pixel_drawRows s x0 y0 col _ (n := n) (by omega)).2 (spriteHits_fresh s x0 y0 (by omega) col)
    simp only [drawRows, collision_drawRow _ _ _ _ _ (Nat.le_refl 8), ih, same, spriteHits_succ]
    constructor
    · rintro (⟨col, row, h, hp⟩ | ⟨col, h, hp⟩)
      · exact ⟨col, row, .inl h, hp⟩
      · exact ⟨col, _, .inr ⟨rfl, h⟩, hp⟩
    · rintro ⟨col, row, h | ⟨hr, h⟩, hp⟩
      · exact .inl ⟨col, row, h, hp⟩
      · exact .inr ⟨col, h, hr ▸ hp⟩

/-- A sprite touches a pixel exactly when it hits one (R171, decision D18). -/
theorem touched_drawRows (s : State) (x0 y0 : Byte) (n : Nat) :
    (drawRows s x0 y0 n).touched = true ↔ ∃ col row, SpriteHits s x0 y0 n col row := by
  induction n with
  | zero => simp [drawRows, SpriteHits]
  | succ n ih =>
    simp only [drawRows, touched_drawRow, ih, spriteHits_succ, exists_or]
    constructor
    · rintro (h | ⟨col, h⟩)
      · exact .inl h
      · exact .inr ⟨col, _, rfl, h⟩
    · rintro (h | ⟨col, row, -, h⟩)
      · exact .inl h
      · exact .inr ⟨col, h⟩

/-- What DRW commits touches FB, V and DIRTY alone, and of V only VF. -/
theorem commitDraw_eq (s : State) (c : Canvas) :
    s.commitDraw c =
      { (s.setReg vf (flagByte c.collision)) with fb := c.fb, dirty := s.dirty || c.touched } := by
  unfold State.commitDraw
  cases c.touched <;> simp [State.setFb, State.setReg, State.setDirty]

@[simp] theorem commitDraw_mem (s : State) (c : Canvas) : (s.commitDraw c).mem = s.mem := by
  rw [commitDraw_eq]
  rfl

@[simp] theorem commitDraw_i (s : State) (c : Canvas) : (s.commitDraw c).i = s.i := by
  rw [commitDraw_eq]
  rfl

@[simp] theorem commitDraw_pc (s : State) (c : Canvas) : (s.commitDraw c).pc = s.pc := by
  rw [commitDraw_eq]
  rfl

@[simp] theorem commitDraw_stack (s : State) (c : Canvas) : (s.commitDraw c).stack = s.stack := by
  rw [commitDraw_eq]
  rfl

@[simp] theorem commitDraw_sp (s : State) (c : Canvas) : (s.commitDraw c).sp = s.sp := by
  rw [commitDraw_eq]
  rfl

@[simp] theorem commitDraw_dt (s : State) (c : Canvas) : (s.commitDraw c).dt = s.dt := by
  rw [commitDraw_eq]
  rfl

@[simp] theorem commitDraw_st (s : State) (c : Canvas) : (s.commitDraw c).st = s.st := by
  rw [commitDraw_eq]
  rfl

@[simp] theorem commitDraw_keys (s : State) (c : Canvas) : (s.commitDraw c).keys = s.keys := by
  rw [commitDraw_eq]
  rfl

@[simp] theorem commitDraw_fault (s : State) (c : Canvas) : (s.commitDraw c).fault = s.fault := by
  rw [commitDraw_eq]
  rfl

@[simp] theorem commitDraw_config (s : State) (c : Canvas) : (s.commitDraw c).config = s.config := by
  rw [commitDraw_eq]
  rfl

@[simp] theorem commitDraw_draws (s : State) (c : Canvas) : (s.commitDraw c).draws = s.draws := by
  rw [commitDraw_eq]
  rfl

@[simp] theorem commitDraw_fb (s : State) (c : Canvas) : (s.commitDraw c).fb = c.fb := by
  rw [commitDraw_eq]

@[simp] theorem commitDraw_dirty (s : State) (c : Canvas) : (s.commitDraw c).dirty = (s.dirty || c.touched) := by
  rw [commitDraw_eq]

theorem reg_commitDraw (s : State) (c : Canvas) (r : Reg) :
    (s.commitDraw c).reg r = if r = vf then flagByte c.collision else s.reg r := by
  rw [commitDraw_eq]
  exact reg_setReg ..

/-! ### Row-major lists -/

/-- The length of a list of `n` rows of `w` elements. -/
theorem length_rows {α : Type} (f : Nat → Nat → α) (w n : Nat) :
    ((List.range n).flatMap fun row => (List.range w).map (f row)).length = n * w := by
  simp

/-- Where the elements of such a list stand. -/
theorem getElem?_rows {α : Type} (f : Nat → Nat → α) {w n col row : Nat} (hc : col < w) (hr : row < n) :
    ((List.range n).flatMap fun row => (List.range w).map (f row))[row * w + col]? = some (f row col) := by
  induction n with
  | zero => omega
  | succ n ih =>
    rw [List.range_succ, List.flatMap_append]
    by_cases h : row < n
    · rw [List.getElem?_append_left, ih h]
      rw [length_rows]
      nlinarith
    · obtain rfl : row = n := by omega
      rw [List.getElem?_append_right (by rw [length_rows]; omega), length_rows]
      simp [hc]

end Sys2Proof.Laws
end

