-- ==== Sys2Proof/Laws/Keypad.lean ====
section
/-! SUPPORT. What the key wait does (R182), and which key it finds. -/

namespace Sys2Proof.Laws

open Sys2Proof.Machine

variable (s : State)

theorem mem_keyScan (k : BitVec 4) : k ∈ keyScan := by
  revert k
  decide

/-- No key is found exactly when none is pressed. -/
theorem firstPressed_eq_none : firstPressed s = none ↔ ∀ k, s.key k = false := by
  simp [firstPressed, List.find?_eq_none, mem_keyScan]

/-- Two keys in scan order stand in the order of their numbers. -/
theorem keyScan_sorted : keyScan.Pairwise fun j k => j.toNat < k.toNat := by decide

/-- The key found is pressed, and no key before it is. -/
theorem firstPressed_eq_some {k : BitVec 4} :
    firstPressed s = some k ↔ s.key k = true ∧ ∀ j, j.toNat < k.toNat → s.key j = false := by
  have sorted := keyScan_sorted
  constructor
  · intro h
    obtain ⟨hk, before, after, hl, hb⟩ := List.find?_eq_some_iff_append.1 h
    refine ⟨hk, fun j hj => ?_⟩
    have hmem := mem_keyScan j
    rw [hl] at hmem sorted
    rcases List.mem_append.1 hmem with hm | hm
    · simpa using hb j hm
    · rcases List.mem_cons.1 hm with rfl | hm
      · omega
      · have := (List.pairwise_cons.1 (List.pairwise_append.1 sorted).2.1).1 j hm
        omega
  · rintro ⟨hk, hj⟩
    cases h : firstPressed s with
    | none => simp [(firstPressed_eq_none s).1 h k] at hk
    | some k' =>
      obtain ⟨hk', before, after, hl, hb⟩ := List.find?_eq_some_iff_append.1 h
      have hmem := mem_keyScan k
      rw [hl] at hmem sorted
      rcases List.mem_append.1 hmem with hm | hm
      · have := hb k hm
        simp_all
      · rcases List.mem_cons.1 hm with rfl | hm
        · rfl
        · have := (List.pairwise_cons.1 (List.pairwise_append.1 sorted).2.1).1 k hm
          simp [hj k' this] at hk'

theorem keyWait_of_none (x : Reg) (h : ∀ k, s.key k = false) : s.keyWait x = s.setPc (s.pc - 2) := by
  simp [State.keyWait, (firstPressed_eq_none s).2 h]

theorem keyWait_of_pressed (x : Reg) {k : BitVec 4} (hk : s.key k = true)
    (hj : ∀ j, j.toNat < k.toNat → s.key j = false) : s.keyWait x = s.setReg x (k.setWidth 8) := by
  simp [State.keyWait, (firstPressed_eq_some s).2 ⟨hk, hj⟩]

/-- The key wait either undoes the advance or writes Vx; it touches nothing else. -/
theorem keyWait_cases (x : Reg) :
    s.keyWait x = s.setPc (s.pc - 2) ∨ ∃ k : BitVec 4, s.key k = true ∧ s.keyWait x = s.setReg x (k.setWidth 8) := by
  unfold State.keyWait
  split
  · exact .inl rfl
  · exact .inr ⟨_, ((firstPressed_eq_some s).1 ‹_›).1, rfl⟩

@[simp] theorem keyWait_mem (x : Reg) : (s.keyWait x).mem = s.mem := by
  rcases keyWait_cases s x with h | ⟨k, -, h⟩ <;> rw [h] <;> rfl

@[simp] theorem keyWait_i (x : Reg) : (s.keyWait x).i = s.i := by
  rcases keyWait_cases s x with h | ⟨k, -, h⟩ <;> rw [h] <;> rfl

@[simp] theorem keyWait_stack (x : Reg) : (s.keyWait x).stack = s.stack := by
  rcases keyWait_cases s x with h | ⟨k, -, h⟩ <;> rw [h] <;> rfl

@[simp] theorem keyWait_sp (x : Reg) : (s.keyWait x).sp = s.sp := by
  rcases keyWait_cases s x with h | ⟨k, -, h⟩ <;> rw [h] <;> rfl

@[simp] theorem keyWait_dt (x : Reg) : (s.keyWait x).dt = s.dt := by
  rcases keyWait_cases s x with h | ⟨k, -, h⟩ <;> rw [h] <;> rfl

@[simp] theorem keyWait_st (x : Reg) : (s.keyWait x).st = s.st := by
  rcases keyWait_cases s x with h | ⟨k, -, h⟩ <;> rw [h] <;> rfl

@[simp] theorem keyWait_fb (x : Reg) : (s.keyWait x).fb = s.fb := by
  rcases keyWait_cases s x with h | ⟨k, -, h⟩ <;> rw [h] <;> rfl

@[simp] theorem keyWait_dirty (x : Reg) : (s.keyWait x).dirty = s.dirty := by
  rcases keyWait_cases s x with h | ⟨k, -, h⟩ <;> rw [h] <;> rfl

@[simp] theorem keyWait_keys (x : Reg) : (s.keyWait x).keys = s.keys := by
  rcases keyWait_cases s x with h | ⟨k, -, h⟩ <;> rw [h] <;> rfl

@[simp] theorem keyWait_fault (x : Reg) : (s.keyWait x).fault = s.fault := by
  rcases keyWait_cases s x with h | ⟨k, -, h⟩ <;> rw [h] <;> rfl

@[simp] theorem keyWait_config (x : Reg) : (s.keyWait x).config = s.config := by
  rcases keyWait_cases s x with h | ⟨k, -, h⟩ <;> rw [h] <;> rfl

@[simp] theorem keyWait_draws (x : Reg) : (s.keyWait x).draws = s.draws := by
  rcases keyWait_cases s x with h | ⟨k, -, h⟩ <;> rw [h] <;> rfl

end Sys2Proof.Laws
end

