-- ==== Sys2Proof/Laws/Exec.lean ====
section
/-! SUPPORT. What `exec` and `step` can do, said once: every instruction that completes is a default advance, the body of
its rule and a tick, so a claim about all instructions is a claim about the bodies, by cases. -/

namespace Sys2Proof.Laws

open Sys2Proof.Machine

/-- The execute phase of an instruction, on the state after the default advance. -/
def bodyOf (i : Instr) (a : State) : State :=
  match i with
  | .cls => (a.setFb Framebuffer.blank).setDirty true
  | .ret => a.popToPc
  | .jp nnn => a.setPc (addrOperand nnn)
  | .call nnn => (a.push a.pc).setPc (addrOperand nnn)
  | .seVxKk x kk => a.skipIf (a.reg x == kk)
  | .sneVxKk x kk => a.skipIf (a.reg x != kk)
  | .seVxVy x y => a.skipIf (a.reg x == a.reg y)
  | .ldVxKk x kk => a.setReg x kk
  | .addVxKk x kk => a.setReg x (a.reg x + kk)
  | .ldVxVy x y => a.setReg x (a.reg y)
  | .orVxVy x y => a.setReg x (a.reg x ||| a.reg y)
  | .andVxVy x y => a.setReg x (a.reg x &&& a.reg y)
  | .xorVxVy x y => a.setReg x (a.reg x ^^^ a.reg y)
  | .addVxVy x y => a.writeResultAndFlag x (a.reg x + a.reg y) (carryFlag (a.reg x) (a.reg y))
  | .subVxVy x y => a.writeResultAndFlag x (a.reg x - a.reg y) (notBorrowFlag (a.reg x) (a.reg y))
  | .shr x y => a.writeResultAndFlag x (shiftOperand a x y >>> 1) (shiftRightFlag (shiftOperand a x y))
  | .subnVxVy x y => a.writeResultAndFlag x (a.reg y - a.reg x) (notBorrowFlag (a.reg y) (a.reg x))
  | .shl x y => a.writeResultAndFlag x (shiftOperand a x y <<< 1) (shiftLeftFlag (shiftOperand a x y))
  | .sneVxVy x y => a.skipIf (a.reg x != a.reg y)
  | .ldI nnn => a.setI (addrOperand nnn)
  | .jpV0 nnn => a.setPc (relativeTarget nnn (a.reg 0x0#4))
  | .rnd x kk => (a.setReg x (Config.rnd a.draws &&& kk)).setDraws (a.draws + 1)
  | .drw x y n => a.commitDraw (drawRows a (a.reg x) (a.reg y) n.toNat)
  | .skp x => a.skipIf (a.key (lowNibble (a.reg x)))
  | .sknp x => a.skipIf (!a.key (lowNibble (a.reg x)))
  | .ldVxDt x => a.setReg x a.dt
  | .ldVxK x => a.keyWait x
  | .ldDtVx x => a.setDt (a.reg x)
  | .ldStVx x => a.setSt (a.reg x)
  | .addIVx x => a.setI (a.i + byteOffset (a.reg x))
  | .ldFVx x => a.setI (glyphAddress (a.reg x))
  | .ldBVx x =>
    ((a.writeByte (cellAddr a.i 0) (hundredsDigit (a.reg x))).writeByte
      (cellAddr a.i 1) (tensDigit (a.reg x))).writeByte (cellAddr a.i 2) (onesDigit (a.reg x))
  | .ldMemVx x => a.storeRegs (x.toNat + 1)
  | .ldVxMem x => a.loadRegs (x.toNat + 1)
  | .sys _ => a
  | .unmapped _ => a

/-- An instruction other than CALL and RET always completes. -/
theorem exec_of_plain {i : Instr} (hc : ∀ nnn, i ≠ .call nnn) (hr : i ≠ .ret) (s : State) :
    exec i s = .next (bodyOf i s.advance).tick := by
  cases i
  case call nnn => exact absurd rfl (hc nnn)
  case ret => exact absurd rfl hr
  all_goals rfl

theorem exec_call {s : State} (nnn : Addr) (h : s.sp.val ≠ 16) :
    exec (.call nnn) s = .next (bodyOf (.call nnn) s.advance).tick := if_neg h

theorem exec_ret {s : State} (h : s.sp.val ≠ 0) : exec .ret s = .next (bodyOf .ret s.advance).tick := if_neg h

/-- All that `exec` can do (R87): retire the instruction's body, or, for CALL with a full stack and RET with an empty
one, latch the fault and change nothing else. -/
theorem exec_cases {i : Instr} {s t : State} (h : exec i s = .next t) :
    t = (bodyOf i s.advance).tick ∨
      ((∃ nnn, i = .call nnn) ∧ s.sp.val = 16 ∧ t = s.setFault (some { code := .stackOverflow, pc := s.pc })) ∨
      (i = .ret ∧ s.sp.val = 0 ∧ t = s.setFault (some { code := .stackUnderflow, pc := s.pc })) := by
  by_cases hc : ∃ nnn, i = .call nnn
  · obtain ⟨nnn, rfl⟩ := hc
    by_cases hsp : s.sp.val = 16
    · rw [exec, execCall, if_pos hsp, takeFault] at h
      exact .inr (.inl ⟨⟨nnn, rfl⟩, hsp, by injection h with h; exact h.symm⟩)
    · rw [exec_call nnn hsp] at h
      exact .inl (by injection h with h; exact h.symm)
  · by_cases hr : i = .ret
    · subst hr
      by_cases hsp : s.sp.val = 0
      · rw [exec, execRet, if_pos hsp, takeFault] at h
        exact .inr (.inr ⟨rfl, hsp, by injection h with h; exact h.symm⟩)
      · rw [exec_ret hsp] at h
        exact .inl (by injection h with h; exact h.symm)
    · rw [exec_of_plain (fun nnn e => hc ⟨nnn, e⟩) hr] at h
      exact .inl (by injection h with h; exact h.symm)

/-- All that a step can do: nothing on a faulted machine, else `exec` of the decoded word (R80, R88). -/
theorem step_cases {s t : State} (h : step s = .next t) :
    (s.fault ≠ none ∧ t = s) ∨ (s.fault = none ∧ exec (decodeWord s.fetchWord) s = .next t) := by
  unfold step at h
  split at h
  · exact .inl ⟨by simp_all, by injection h with h; exact h.symm⟩
  · exact .inr ⟨‹_›, h⟩

/-- A run whose first step answers `t` goes on from `t`. -/
theorem run_succ {s t : State} (h : step s = .next t) (k : Nat) :
    Host.Core.run Sys2Proof.core (k + 1) s = Host.Core.run Sys2Proof.core k t := by
  simp only [Host.Core.run]
  rw [show Sys2Proof.core.step s = .next t from h]

end Sys2Proof.Laws
end

