-- ==== Sys2Proof/Laws/PerInstr.lean ====
section
/-! SUPPORT. Statements made per instruction. Family FixedBits: the word of an instruction has the fixed bits of its row
of the opcode map (R65), and the word of a no-op is one of the unmapped words (R66). -/

namespace Sys2Proof.Laws.FixedBits

/-- The row of the opcode map an instruction stands for; the no-op constructors have none of the 34 mapped rows. -/
def rowOf (i : Instr) : Option OpcodeRow := opcodeTable.find? fun r => r.mnemonic == mnemonicOf i

/-- The encoding of a well-formed instruction carries the fixed bits of its row. -/
def Statement (i : Instr) : Prop :=
  WellFormed i →
    match rowOf i with
    | some r => r.selects (encode i) = true
    | none => isUnmappedWord (encode i) = true

/-! ### The fixed bits of each format (R62) -/

theorem formatNnn_family (op : BitVec 4) (nnn : Addr) : formatNnn op nnn &&& 0xF000#16 = op ++ 0#12 := by
  have h : (op ++ nnn : BitVec (4 + 12)) &&& (BitVec.allOnes 4 ++ 0#12) = op ++ 0#12 := by
    simp only [BitVec.and_append, BitVec.and_allOnes, BitVec.and_zero]
  exact h

theorem formatXkk_family (op : BitVec 4) (x : Reg) (kk : Byte) : formatXkk op x kk &&& 0xF000#16 = op ++ 0#12 :=
  formatNnn_family op (x ++ kk)

theorem formatXkk_subCode (op : BitVec 4) (x : Reg) (kk : Byte) :
    formatXkk op x kk &&& 0xF0FF#16 = op ++ (0#4 ++ kk : BitVec 12) := by
  have h : (op ++ (x ++ kk : BitVec (4 + 8)) : BitVec (4 + 12)) &&&
      (BitVec.allOnes 4 ++ (0#4 ++ BitVec.allOnes 8 : BitVec (4 + 8))) = op ++ (0#4 ++ kk : BitVec (4 + 8)) := by
    simp only [BitVec.and_append, BitVec.and_allOnes, BitVec.and_zero]
  exact h

theorem formatXyn_family (op : BitVec 4) (x y : Reg) (n : Nibble) : formatXyn op x y n &&& 0xF000#16 = op ++ 0#12 :=
  formatNnn_family op (x ++ (y ++ n : BitVec 8))

theorem formatXyn_subCode (op : BitVec 4) (x y : Reg) (n : Nibble) :
    formatXyn op x y n &&& 0xF00F#16 = op ++ (0#4 ++ (0#4 ++ n : BitVec 8) : BitVec 12) := by
  have h : (op ++ (x ++ (y ++ n : BitVec (4 + 4)) : BitVec (4 + 8)) : BitVec (4 + 12)) &&&
      (BitVec.allOnes 4 ++ (0#4 ++ (0#4 ++ BitVec.allOnes 4 : BitVec (4 + 4)) : BitVec (4 + 8))) =
        op ++ (0#4 ++ (0#4 ++ n : BitVec (4 + 4)) : BitVec (4 + 8)) := by
    simp only [BitVec.and_append, BitVec.and_allOnes, BitVec.and_zero]
  exact h

/-! ### The instructions -/

theorem cls : Statement (.cls) := fun _ => rfl

theorem ret : Statement (.ret) := fun _ => rfl

theorem jp (nnn : Addr) : Statement (.jp nnn) := fun _ => by
  show (encode (.jp nnn) &&& 0xF000#16 == 0x1000#16) = true
  rw [encode, formatNnn_family]
  decide

theorem call (nnn : Addr) : Statement (.call nnn) := fun _ => by
  show (encode (.call nnn) &&& 0xF000#16 == 0x2000#16) = true
  rw [encode, formatNnn_family]
  decide

theorem seVxKk (x : Reg) (kk : Byte) : Statement (.seVxKk x kk) := fun _ => by
  show (encode (.seVxKk x kk) &&& 0xF000#16 == 0x3000#16) = true
  rw [encode, formatXkk_family]
  decide

theorem sneVxKk (x : Reg) (kk : Byte) : Statement (.sneVxKk x kk) := fun _ => by
  show (encode (.sneVxKk x kk) &&& 0xF000#16 == 0x4000#16) = true
  rw [encode, formatXkk_family]
  decide

theorem seVxVy (x y : Reg) : Statement (.seVxVy x y) := fun _ => by
  show (encode (.seVxVy x y) &&& 0xF00F#16 == 0x5000#16) = true
  rw [encode, formatXyn_subCode]
  decide

theorem ldVxKk (x : Reg) (kk : Byte) : Statement (.ldVxKk x kk) := fun _ => by
  show (encode (.ldVxKk x kk) &&& 0xF000#16 == 0x6000#16) = true
  rw [encode, formatXkk_family]
  decide

theorem addVxKk (x : Reg) (kk : Byte) : Statement (.addVxKk x kk) := fun _ => by
  show (encode (.addVxKk x kk) &&& 0xF000#16 == 0x7000#16) = true
  rw [encode, formatXkk_family]
  decide

theorem ldVxVy (x y : Reg) : Statement (.ldVxVy x y) := fun _ => by
  show (encode (.ldVxVy x y) &&& 0xF00F#16 == 0x8000#16) = true
  rw [encode, formatXyn_subCode]
  decide

theorem orVxVy (x y : Reg) : Statement (.orVxVy x y) := fun _ => by
  show (encode (.orVxVy x y) &&& 0xF00F#16 == 0x8001#16) = true
  rw [encode, formatXyn_subCode]
  decide

theorem andVxVy (x y : Reg) : Statement (.andVxVy x y) := fun _ => by
  show (encode (.andVxVy x y) &&& 0xF00F#16 == 0x8002#16) = true
  rw [encode, formatXyn_subCode]
  decide

theorem xorVxVy (x y : Reg) : Statement (.xorVxVy x y) := fun _ => by
  show (encode (.xorVxVy x y) &&& 0xF00F#16 == 0x8003#16) = true
  rw [encode, formatXyn_subCode]
  decide

theorem addVxVy (x y : Reg) : Statement (.addVxVy x y) := fun _ => by
  show (encode (.addVxVy x y) &&& 0xF00F#16 == 0x8004#16) = true
  rw [encode, formatXyn_subCode]
  decide

theorem subVxVy (x y : Reg) : Statement (.subVxVy x y) := fun _ => by
  show (encode (.subVxVy x y) &&& 0xF00F#16 == 0x8005#16) = true
  rw [encode, formatXyn_subCode]
  decide

theorem shr (x y : Reg) : Statement (.shr x y) := fun _ => by
  show (encode (.shr x y) &&& 0xF00F#16 == 0x8006#16) = true
  rw [encode, formatXyn_subCode]
  decide

theorem subnVxVy (x y : Reg) : Statement (.subnVxVy x y) := fun _ => by
  show (encode (.subnVxVy x y) &&& 0xF00F#16 == 0x8007#16) = true
  rw [encode, formatXyn_subCode]
  decide

theorem shl (x y : Reg) : Statement (.shl x y) := fun _ => by
  show (encode (.shl x y) &&& 0xF00F#16 == 0x800E#16) = true
  rw [encode, formatXyn_subCode]
  decide

theorem sneVxVy (x y : Reg) : Statement (.sneVxVy x y) := fun _ => by
  show (encode (.sneVxVy x y) &&& 0xF00F#16 == 0x9000#16) = true
  rw [encode, formatXyn_subCode]
  decide

theorem ldI (nnn : Addr) : Statement (.ldI nnn) := fun _ => by
  show (encode (.ldI nnn) &&& 0xF000#16 == 0xA000#16) = true
  rw [encode, formatNnn_family]
  decide

theorem jpV0 (nnn : Addr) : Statement (.jpV0 nnn) := fun _ => by
  show (encode (.jpV0 nnn) &&& 0xF000#16 == 0xB000#16) = true
  rw [encode, formatNnn_family]
  decide

theorem rnd (x : Reg) (kk : Byte) : Statement (.rnd x kk) := fun _ => by
  show (encode (.rnd x kk) &&& 0xF000#16 == 0xC000#16) = true
  rw [encode, formatXkk_family]
  decide

theorem drw (x y : Reg) (n : Nibble) : Statement (.drw x y n) := fun _ => by
  show (encode (.drw x y n) &&& 0xF000#16 == 0xD000#16) = true
  rw [encode, formatXyn_family]
  decide

theorem skp (x : Reg) : Statement (.skp x) := fun _ => by
  show (encode (.skp x) &&& 0xF0FF#16 == 0xE09E#16) = true
  rw [encode, formatXkk_subCode]
  decide

theorem sknp (x : Reg) : Statement (.sknp x) := fun _ => by
  show (encode (.sknp x) &&& 0xF0FF#16 == 0xE0A1#16) = true
  rw [encode, formatXkk_subCode]
  decide

theorem ldVxDt (x : Reg) : Statement (.ldVxDt x) := fun _ => by
  show (encode (.ldVxDt x) &&& 0xF0FF#16 == 0xF007#16) = true
  rw [encode, formatXkk_subCode]
  decide

theorem ldVxK (x : Reg) : Statement (.ldVxK x) := fun _ => by
  show (encode (.ldVxK x) &&& 0xF0FF#16 == 0xF00A#16) = true
  rw [encode, formatXkk_subCode]
  decide

theorem ldDtVx (x : Reg) : Statement (.ldDtVx x) := fun _ => by
  show (encode (.ldDtVx x) &&& 0xF0FF#16 == 0xF015#16) = true
  rw [encode, formatXkk_subCode]
  decide

theorem ldStVx (x : Reg) : Statement (.ldStVx x) := fun _ => by
  show (encode (.ldStVx x) &&& 0xF0FF#16 == 0xF018#16) = true
  rw [encode, formatXkk_subCode]
  decide

theorem addIVx (x : Reg) : Statement (.addIVx x) := fun _ => by
  show (encode (.addIVx x) &&& 0xF0FF#16 == 0xF01E#16) = true
  rw [encode, formatXkk_subCode]
  decide

theorem ldFVx (x : Reg) : Statement (.ldFVx x) := fun _ => by
  show (encode (.ldFVx x) &&& 0xF0FF#16 == 0xF029#16) = true
  rw [encode, formatXkk_subCode]
  decide

theorem ldBVx (x : Reg) : Statement (.ldBVx x) := fun _ => by
  show (encode (.ldBVx x) &&& 0xF0FF#16 == 0xF033#16) = true
  rw [encode, formatXkk_subCode]
  decide

theorem ldMemVx (x : Reg) : Statement (.ldMemVx x) := fun _ => by
  show (encode (.ldMemVx x) &&& 0xF0FF#16 == 0xF055#16) = true
  rw [encode, formatXkk_subCode]
  decide

theorem ldVxMem (x : Reg) : Statement (.ldVxMem x) := fun _ => by
  show (encode (.ldVxMem x) &&& 0xF0FF#16 == 0xF065#16) = true
  rw [encode, formatXkk_subCode]
  decide

theorem sys (nnn : Addr) : Statement (.sys nnn) := fun h => by
  show isUnmappedWord (formatNnn 0x0#4 nnn) = true
  have h : sysAddressOk nnn = true := h
  have e : (formatNnn 0x0#4 nnn).toNat = nnn.toNat := by
    simp only [formatNnn, BitVec.toNat_append]
    simp
  have d : nnn.toNat / 0x1000 = 0 := Nat.div_eq_of_lt nnn.isLt
  simpa [isUnmappedWord, sysAddressOk, e, d] using h

theorem unmapped (w : Word) : Statement (.unmapped w) := fun h => ((Bool.and_eq_true ..).mp h).1

end Sys2Proof.Laws.FixedBits
end

