-- ==== Sys2Proof/Tests/Slice0.lean ====
section
/-! SUPPORT. Tests: well-formedness, decoding of words written out from the patterns of R65, single steps with the
expected values of spec/95_test_vectors.md, and a witness for the hypotheses of every obligation that has any. -/

namespace Sys2Proof.Tests

open Sys2Proof.Machine

/-! ### Well-formedness: an ill-formed term for each check (R66) -/

theorem test_wf_sys : wellFormed (.sys 0x0E1#12) = true ∧ wellFormed (.sys 0x0E0#12) = false ∧
    wellFormed (.sys 0x0EE#12) = false := by decide

/-- Mapped words of each family with unmapped ones, and a word of family 0, are no `unmapped`. -/
theorem test_wf_unmapped : wellFormed (.unmapped 0x5AB1#16) = true ∧ wellFormed (.unmapped 0x5AB0#16) = false ∧
    wellFormed (.unmapped 0x8ABE#16) = false ∧ wellFormed (.unmapped 0x9AB0#16) = false ∧
    wellFormed (.unmapped 0xE19E#16) = false ∧ wellFormed (.unmapped 0xF165#16) = false ∧
    wellFormed (.unmapped 0x1234#16) = false ∧ wellFormed (.unmapped 0x0123#16) = false := by decide

/-! ### Decoding: words written out from the patterns of R65, a line per family -/

theorem test_decode_0 : decodeWord 0x00E0#16 = .cls ∧ decodeWord 0x00EE#16 = .ret ∧
    decodeWord 0x0123#16 = .sys 0x123#12 ∧ decodeWord 0x00E1#16 = .sys 0x0E1#12 ∧
    decodeWord 0x01E0#16 = .sys 0x1E0#12 ∧ decodeWord 0x0FEE#16 = .sys 0xFEE#12 := by decide
theorem test_decode_1_2 : decodeWord 0x1ABC#16 = .jp 0xABC#12 ∧ decodeWord 0x2ABC#16 = .call 0xABC#12 := by decide
theorem test_decode_3_4 : decodeWord 0x3A42#16 = .seVxKk 0xA#4 0x42#8 ∧ decodeWord 0x4A42#16 = .sneVxKk 0xA#4 0x42#8 := by
  decide
theorem test_decode_5_9 : decodeWord 0x5120#16 = .seVxVy 0x1#4 0x2#4 ∧ decodeWord 0x9120#16 = .sneVxVy 0x1#4 0x2#4 ∧
    decodeWord 0x5AB1#16 = .unmapped 0x5AB1#16 ∧ decodeWord 0x9121#16 = .unmapped 0x9121#16 := by decide
theorem test_decode_6_7 : decodeWord 0x6AFF#16 = .ldVxKk 0xA#4 0xFF#8 ∧
    decodeWord 0x7103#16 = .addVxKk 0x1#4 0x03#8 := by decide
theorem test_decode_8_low : decodeWord 0x8120#16 = .ldVxVy 0x1#4 0x2#4 ∧ decodeWord 0x8121#16 = .orVxVy 0x1#4 0x2#4 ∧
    decodeWord 0x8122#16 = .andVxVy 0x1#4 0x2#4 ∧ decodeWord 0x8123#16 = .xorVxVy 0x1#4 0x2#4 := by decide
theorem test_decode_8_high : decodeWord 0x8124#16 = .addVxVy 0x1#4 0x2#4 ∧
    decodeWord 0x8125#16 = .subVxVy 0x1#4 0x2#4 ∧ decodeWord 0x8126#16 = .shr 0x1#4 0x2#4 ∧
    decodeWord 0x8127#16 = .subnVxVy 0x1#4 0x2#4 ∧ decodeWord 0x812E#16 = .shl 0x1#4 0x2#4 ∧
    decodeWord 0x8ABD#16 = .unmapped 0x8ABD#16 := by decide
theorem test_decode_A_to_D : decodeWord 0xAFFE#16 = .ldI 0xFFE#12 ∧ decodeWord 0xB300#16 = .jpV0 0x300#12 ∧
    decodeWord 0xC30F#16 = .rnd 0x3#4 0x0F#8 ∧ decodeWord 0xD235#16 = .drw 0x2#4 0x3#4 0x5#4 := by decide
theorem test_decode_E : decodeWord 0xE59E#16 = .skp 0x5#4 ∧ decodeWord 0xE5A1#16 = .sknp 0x5#4 ∧
    decodeWord 0xE19F#16 = .unmapped 0xE19F#16 := by decide
theorem test_decode_F_timers : decodeWord 0xF107#16 = .ldVxDt 0x1#4 ∧ decodeWord 0xF20A#16 = .ldVxK 0x2#4 ∧
    decodeWord 0xF315#16 = .ldDtVx 0x3#4 ∧ decodeWord 0xF418#16 = .ldStVx 0x4#4 ∧
    decodeWord 0xFFFF#16 = .unmapped 0xFFFF#16 := by decide
theorem test_decode_F_memory : decodeWord 0xF41E#16 = .addIVx 0x4#4 ∧ decodeWord 0xF129#16 = .ldFVx 0x1#4 ∧
    decodeWord 0xF033#16 = .ldBVx 0x0#4 ∧ decodeWord 0xF255#16 = .ldMemVx 0x2#4 ∧
    decodeWord 0xF265#16 = .ldVxMem 0x2#4 := by decide

/-- A byte list shorter than an instruction is rejected by name; bytes after it are left over (R44, R60). -/
theorem test_decode_bytes : decodeBytes [] = .error .truncated ∧ decodeBytes [0x12#8] = .error .truncated ∧
    decodeBytes [0x12#8, 0x34#8, 0x56#8] = .ok (.jp 0x234#12, [0x56#8]) := by decide

theorem test_decode_table_word : decodeTableWord 16 0x8014 = some (.addVxVy 0x0#4 0x1#4) := by decide

/-! ### Single steps -/

/-- One step of `s` with the word `w` placed where the step fetches it. -/
def stepWord (w : Nat) (s : State) : Option State :=
  match step (s.withFetchWord 16 w) with
  | .next t => some t
  | .fault _ => none
  | .refused _ => none

/-- The reset state with two registers preset. -/
def preset (x : Reg) (a : Byte) (y : Reg) (b : Byte) : State := (State.reset.setReg x a).setReg y b

/-- The other setting of both switches of R4. -/
def otherSwitches : Config := { defaultConfig with shiftSource := .vy, vfOrder := .resultLast }

/-- Every pixel on. -/
def allOn : Framebuffer := Vector.replicate 32 0xFFFFFFFFFFFFFFFF#64

/-- What a flag-writing instruction with x = 0 and y = 1 leaves in V0 and VF. -/
def resultAndFlag (w : Nat) (a b : Byte) : Option (Byte × Byte) :=
  (stepWord w (preset 0x0#4 a 0x1#4 b)).map fun t => (t.reg 0x0#4, t.reg 0xF#4)

/-- What a flag-writing instruction with x = F and y = 1 leaves in VF, under each order (R133). -/
def flagDestination (w : Nat) (a b : Byte) (c : Config) : Option Byte :=
  (stepWord w { preset 0xF#4 a 0x1#4 b with config := c }).map fun t => t.reg 0xF#4

/-- PC after one step. -/
def pcAfter (w : Nat) (s : State) : Option Word := (stepWord w s).map fun t => t.pc

/-- V-STP-1, V-STP-2. -/
theorem test_sys : (stepWord 0x0123 (((State.reset.setReg 0x1#4 9).setDt 3).setSt 1)).map
    (fun t => (t.pc, t.dt, t.st, t.reg 0x1#4, t.fault)) = some (0x202#16, 2, 0, 9, none) := by decide

/-- V-STP-3 to V-STP-7: the neighbours of mapped words do nothing. -/
theorem test_unmapped : pcAfter 0x5AB1 State.reset = some 0x202#16 ∧ pcAfter 0x800F State.reset = some 0x202#16 ∧
    pcAfter 0x9121 (preset 0x1#4 7 0x2#4 8) = some 0x202#16 ∧ pcAfter 0xE1A0 State.reset = some 0x202#16 ∧
    (stepWord 0xF166 State.reset).map (fun t => (t.pc, t.mem)) =
      some (0x202#16, [(0x200, 0xF1#8), (0x201, 0x66#8)]) := by decide

/-- V-STP-8, V-STP-10: the fetch wraps at the top of memory, and may start at an odd address. -/
theorem test_fetch_wraps : (stepWord 0x6A55 (State.reset.setPc 0xFFF)).map
    (fun t => (t.pc, t.reg 0xA#4, t.mem)) = some (0x001#16, 0x55#8, [(0x000, 0x55#8), (0xFFF, 0x6A#8)]) ∧
    (stepWord 0x6307 (State.reset.setPc 0x201)).map (fun t => (t.pc, t.reg 0x3#4)) = some (0x203#16, 7#8) := by decide

/-- V-CLS-1. -/
theorem test_cls : (stepWord 0x00E0 ((State.reset.setFb allOn).setReg 0xF#4 1)).map
    (fun t => (t.fb, t.dirty, t.reg 0xF#4)) = some (Framebuffer.blank, true, 1#8) := by decide

/-- V-CF-1, V-STP-11. -/
theorem test_jp : pcAfter 0x1ABC State.reset = some 0xABC#16 ∧ pcAfter 0x1234 State.reset = some 0x234#16 := by decide

/-- V-CF-3, V-CF-4, V-CF-5: the saved address wraps, and the sixteenth level is legal. -/
theorem test_call : (stepWord 0x2ABC State.reset).map (fun t => (t.pc, t.sp, t.stackAt 0)) = some (0xABC#16, 1, 0x202#16) ∧
    (stepWord 0x2234 (State.reset.setPc 0xFFE)).map (fun t => (t.pc, t.stackAt 0)) = some (0x234#16, 0x000#16) ∧
    (stepWord 0x2ABC (State.reset.setSp 15)).map (fun t => (t.sp, t.stackAt 15)) = some (16, 0x202#16) := by decide

/-- V-CF-6. -/
theorem test_call_overflow : (stepWord 0x2ABC ((State.reset.setSp 16).setDt 3)).map
    (fun t => (t.fault, t.pc, t.sp, t.dt)) =
      some (some { code := .stackOverflow, pc := 0x200#16 }, 0x200#16, 16, 3#8) := by decide

/-- V-CF-7, V-CF-8. -/
theorem test_ret : (stepWord 0x00EE ((State.reset.setStack 0 0x345).setSp 1)).map
    (fun t => (t.pc, t.sp, t.stackAt 0)) = some (0x345#16, 0, 0x345#16) ∧
    (stepWord 0x00EE ((State.reset.setStack 15 0x222).setSp 16)).map (fun t => (t.pc, t.sp)) = some (0x222#16, 15) := by
  decide

/-- V-CF-9, V-FLT-1: a fault ticks nothing, and a faulted machine stands still. -/
theorem test_ret_underflow : (stepWord 0x00EE (State.reset.setDt 3)).map (fun t => (t.readFault, t.pc, t.dt)) =
    some (some (2, 0x200#16), 0x200#16, 3#8) := by decide

/-- V-CF-10, V-CF-11, V-CF-20. -/
theorem test_se_kk : pcAfter 0x3A42 (State.reset.setReg 0xA#4 0x42) = some 0x204#16 ∧
    pcAfter 0x3A42 (State.reset.setReg 0xA#4 0x43) = some 0x202#16 ∧
    pcAfter 0x3000 (State.reset.setPc 0xFFC) = some 0x000#16 := by decide

/-- V-CF-12, V-CF-13. -/
theorem test_sne_kk : pcAfter 0x4A42 (State.reset.setReg 0xA#4 0x42) = some 0x202#16 ∧
    pcAfter 0x4A42 (State.reset.setReg 0xA#4 0x43) = some 0x204#16 := by decide

/-- V-CF-14, V-CF-15. -/
theorem test_se_reg : pcAfter 0x5120 (preset 0x1#4 7 0x2#4 7) = some 0x204#16 ∧
    pcAfter 0x5120 (preset 0x1#4 7 0x2#4 8) = some 0x202#16 := by decide

/-- V-CF-17, V-CF-18. -/
theorem test_sne_reg : pcAfter 0x9120 (preset 0x1#4 7 0x2#4 7) = some 0x202#16 ∧
    pcAfter 0x9120 (preset 0x1#4 7 0x2#4 8) = some 0x204#16 := by decide

/-- V-CF-22, V-CF-23, V-CF-24. -/
theorem test_jp_v0 : pcAfter 0xBFFF (State.reset.setReg 0x0#4 2) = some 0x001#16 ∧
    pcAfter 0xB300 ((State.reset.setReg 0x0#4 4).setI 0x500) = some 0x304#16 ∧
    pcAfter 0xB2FF (State.reset.setReg 0x0#4 0xFF) = some 0x3FE#16 := by decide

/-- V-ALU-1. -/
theorem test_ld_kk : (stepWord 0x6AFF State.reset).map (fun t => (t.reg 0xA#4, t.reg 0xF#4)) = some (0xFF#8, 0#8) := by
  decide

/-- V-ALU-2, V-ALU-3. -/
theorem test_add_kk : (stepWord 0x7103 (State.reset.setReg 0x1#4 0xFE)).map (fun t => (t.reg 0x1#4, t.reg 0xF#4)) =
    some (0x01#8, 0#8) ∧ (stepWord 0x7F01 (State.reset.setReg 0xF#4 0xFF)).map (fun t => t.reg 0xF#4) = some 0#8 := by
  decide

/-- V-ALU-25. -/
theorem test_ld_reg : (stepWord 0x8120 (preset 0x1#4 1 0x2#4 0xAB)).map (fun t => (t.reg 0x1#4, t.reg 0x2#4)) =
    some (0xAB#8, 0xAB#8) := by decide

/-- V-ALU-26 (VF is 0 here). -/
theorem test_or : resultAndFlag 0x8011 0xF0 0x0F = some (0xFF#8, 0#8) := by decide

/-- V-ALU-27. -/
theorem test_and : resultAndFlag 0x8012 0xF5 0x3C = some (0x34#8, 0#8) := by decide

/-- V-ALU-28. -/
theorem test_xor : resultAndFlag 0x8013 0xF5 0x3C = some (0xC9#8, 0#8) := by decide

/-- V-ALU-4, V-ALU-6, V-ALU-7, V-ALU-8. -/
theorem test_add : resultAndFlag 0x8014 0xFF 0x01 = some (0x00#8, 1#8) ∧
    resultAndFlag 0x8014 0x80 0x7F = some (0xFF#8, 0#8) ∧ resultAndFlag 0x8004 0x90 0 = some (0x20#8, 1#8) ∧
    (stepWord 0x80F4 (preset 0x0#4 0xFE 0xF#4 0x03)).map (fun t => (t.reg 0x0#4, t.reg 0xF#4)) =
      some (0x01#8, 1#8) := by decide

/-- V-VF-1, V-VF-2. -/
theorem test_add_vf : flagDestination 0x8F14 0x10 0x20 defaultConfig = some 0x00#8 ∧
    flagDestination 0x8F14 0x10 0x20 otherSwitches = some 0x30#8 ∧
    flagDestination 0x8F14 0xFF 0x02 defaultConfig = some 0x01#8 := by decide

/-- V-ALU-9 to V-ALU-11. -/
theorem test_sub : resultAndFlag 0x8015 0x10 0x20 = some (0xF0#8, 0#8) ∧
    resultAndFlag 0x8015 0x20 0x10 = some (0x10#8, 1#8) ∧ resultAndFlag 0x8015 0x33 0x33 = some (0x00#8, 0#8) := by decide

/-- V-VF-3. -/
theorem test_sub_vf : flagDestination 0x8F15 0x30 0x10 defaultConfig = some 0x01#8 ∧
    flagDestination 0x8F15 0x30 0x10 otherSwitches = some 0x20#8 := by decide

/-- V-ALU-14 to V-ALU-16. -/
theorem test_subn : resultAndFlag 0x8017 0x10 0x20 = some (0x10#8, 1#8) ∧
    resultAndFlag 0x8017 0x20 0x10 = some (0xF0#8, 0#8) ∧ resultAndFlag 0x8017 0x33 0x33 = some (0x00#8, 0#8) := by decide

/-- V-VF-4. -/
theorem test_subn_vf : flagDestination 0x8F17 0x10 0x30 defaultConfig = some 0x01#8 ∧
    flagDestination 0x8F17 0x10 0x30 otherSwitches = some 0x20#8 := by decide

/-- V-ALU-17 to V-ALU-19, V-VF-5. -/
theorem test_shr : resultAndFlag 0x8016 0x05 0xFF = some (0x02#8, 1#8) ∧ resultAndFlag 0x8006 0xFF 0 = some (0x7F#8, 1#8) ∧
    resultAndFlag 0x8006 0x00 0 = some (0x00#8, 0#8) ∧ flagDestination 0x8F06 0x06 0 defaultConfig = some 0x00#8 := by
  decide

/-- V-ALU-23, both settings of SHIFT_SOURCE. -/
theorem test_shr_source : (stepWord 0x8236 { preset 0x2#4 0xFF 0x3#4 0x05 with config := otherSwitches }).map
    (fun t => (t.reg 0x2#4, t.reg 0x3#4, t.reg 0xF#4)) = some (0x02#8, 0x05#8, 1#8) ∧
    (stepWord 0x8236 (preset 0x2#4 0xFF 0x3#4 0x05)).map (fun t => (t.reg 0x2#4, t.reg 0xF#4)) = some (0x7F#8, 1#8) := by
  decide

/-- V-ALU-20 to V-ALU-22, V-VF-6. -/
theorem test_shl : resultAndFlag 0x801E 0x81 0 = some (0x02#8, 1#8) ∧ resultAndFlag 0x800E 0x7F 0 = some (0xFE#8, 0#8) ∧
    resultAndFlag 0x800E 0x80 0 = some (0x00#8, 1#8) ∧ flagDestination 0x8F0E 0x41 0 defaultConfig = some 0x00#8 := by
  decide

/-- V-ALU-24, both settings of SHIFT_SOURCE. -/
theorem test_shl_source : (stepWord 0x823E { preset 0x2#4 0x00 0x3#4 0x85 with config := otherSwitches }).map
    (fun t => (t.reg 0x2#4, t.reg 0xF#4)) = some (0x0A#8, 1#8) ∧
    (stepWord 0x823E (preset 0x2#4 0x00 0x3#4 0x85)).map (fun t => (t.reg 0x2#4, t.reg 0xF#4)) = some (0x00#8, 0#8) := by
  decide

/-- V-ALU-30, with the byte left free: the register takes the next free byte masked. -/
theorem test_rnd : (stepWord 0xC30F State.reset).map (fun t => t.reg 0x3#4) = some (Config.rnd 0 &&& 0x0F#8) := rfl

/-- RND writes no flag and takes one byte of the stream (R132). -/
theorem test_rnd_rest : (stepWord 0xC30F (State.reset.setReg 0xF#4 7)).map (fun t => (t.reg 0xF#4, t.pc, t.draws)) =
    some (7#8, 0x202#16, 1) := by decide

/-- V-MEM-1. -/
theorem test_ld_i : (stepWord 0xAFFF State.reset).map (fun t => t.i) = some 0xFFF#16 := by decide

/-- V-MEM-2 to V-MEM-4. -/
theorem test_add_i : (stepWord 0xF41E ((State.reset.setReg 0x4#4 0x10).setI 0x300)).map (fun t => t.i) = some 0x310#16 ∧
    (stepWord 0xF41E ((State.reset.setReg 0x4#4 0x01).setI 0xFFF)).map (fun t => (t.i, t.reg 0xF#4)) =
      some (0x000#16, 0#8) ∧
    (stepWord 0xF41E ((State.reset.setReg 0x4#4 0xFF).setI 0xFFF)).map (fun t => t.i) = some 0x0FE#16 := by decide

/-- V-MEM-5 to V-MEM-7. -/
theorem test_ld_f : (stepWord 0xF129 (State.reset.setReg 0x1#4 0x1A)).map (fun t => t.i) = some 0x082#16 ∧
    (stepWord 0xF029 State.reset).map (fun t => t.i) = some 0x050#16 ∧
    (stepWord 0xF029 (State.reset.setReg 0x0#4 0x0F)).map (fun t => t.i) = some 0x09B#16 := by decide

/-- V-MEM-8, V-MEM-9. -/
theorem test_ld_b : (stepWord 0xF033 ((State.reset.setReg 0x0#4 255).setI 0x300)).map
    (fun t => (t.readByte 0x300, t.readByte 0x301, t.readByte 0x302, t.i)) = some (2#8, 5#8, 5#8, 0x300#16) ∧
    (stepWord 0xF033 ((State.reset.setReg 0x0#4 100).setI 0x300)).map
      (fun t => (t.readByte 0x300, t.readByte 0x301, t.readByte 0x302)) = some (1#8, 0#8, 0#8) := by decide

/-- V-MEM-10. -/
theorem test_ld_b_wraps : (stepWord 0xF033 ((State.reset.setReg 0x0#4 255).setI 0xFFE)).map
    (fun t => (t.readByte 0xFFE, t.readByte 0xFFF, t.readByte 0x000)) = some (2#8, 5#8, 5#8) := by decide

/-- V-MEM-11. -/
theorem test_store : (stepWord 0xF255 ((((preset 0x0#4 0x11 0x1#4 0x22).setReg 0x2#4 0x33).setReg 0x3#4 0x44).setI 0x400)).map
    (fun t => (t.readByte 0x400, t.readByte 0x401, t.readByte 0x402, t.readByte 0x403, t.i)) =
      some (0x11#8, 0x22#8, 0x33#8, 0x00#8, 0x400#16) := by decide

/-- V-MEM-13, V-MEM-15: a store wraps, and the font is writable. -/
theorem test_store_edges : (stepWord 0xF155 ((preset 0x0#4 0xAA 0x1#4 0xBB).setI 0xFFF)).map
    (fun t => (t.readByte 0xFFF, t.readByte 0x000, t.i)) = some (0xAA#8, 0xBB#8, 0xFFF#16) ∧
    (stepWord 0xF055 ((State.reset.setReg 0x0#4 0xEE).setI 0x050)).map (fun t => t.readByte 0x050) = some 0xEE#8 := by
  decide

/-- V-MEM-16. -/
theorem test_load : (stepWord 0xF265 (((((State.reset.writeByte 0xFFE 0x11).writeByte 0xFFF 0x22).writeByte 0x000 0x33).setI
    0xFFE).setReg 0x3#4 9)).map (fun t => (t.reg 0x0#4, t.reg 0x1#4, t.reg 0x2#4, t.reg 0x3#4, t.i)) =
      some (0x11#8, 0x22#8, 0x33#8, 9#8, 0xFFE#16) := by decide

/-- V-MEM-17. -/
theorem test_load_font : (stepWord 0xF465 (State.reset.setI 0x050)).map
    (fun t => (t.reg 0x0#4, t.reg 0x1#4, t.reg 0x2#4, t.reg 0x3#4, t.reg 0x4#4)) =
      some (0xF0#8, 0x90#8, 0x90#8, 0x90#8, 0xF0#8) := by decide

/-- V-DRW-5 and S3: both origins are reduced, and the sprite wraps horizontally. -/
theorem test_drw : (stepWord 0xD011 (((preset 0x0#4 0x7C 0x1#4 0x3E).setI 0x300).writeByte 0x300 0xFF)).map
    (fun t => (t.fb, t.reg 0xF#4, t.dirty)) =
      some (Framebuffer.blank.set 30 0xF00000000000000F#64, 0#8, true) := by decide

/-- V-DRW-1, V-DRW-3, V-DRW-6: nothing to draw; VF is the origin before it is the flag; a collision. -/
theorem test_drw_flags : (stepWord 0xD000 (State.reset.setReg 0xF#4 1)).map (fun t => (t.reg 0xF#4, t.dirty)) =
    some (0#8, false) ∧
    (stepWord 0xDF01 (((State.reset.setReg 0xF#4 5).setI 0x300).writeByte 0x300 0x80)).map
      (fun t => (t.pixel 5 0, t.reg 0xF#4, t.dirty)) = some (true, 0#8, true) ∧
    (stepWord 0xD011 (((State.reset.setFb (Framebuffer.blank.set 0 1#64)).setI 0x300).writeByte 0x300 0xC0)).map
      (fun t => (t.pixel 0 0, t.pixel 1 0, t.reg 0xF#4)) = some (false, true, 1#8) := by decide

/-- V-KEY-1 to V-KEY-3. -/
theorem test_skp : pcAfter 0xE59E ((State.reset.setReg 0x5#4 0x1A).setKey 0xA#4 true) = some 0x204#16 ∧
    pcAfter 0xE59E (State.reset.setReg 0x5#4 0x0A) = some 0x202#16 := by decide

/-- V-KEY-4, V-KEY-5. -/
theorem test_sknp : pcAfter 0xE5A1 ((State.reset.setReg 0x5#4 0x0A).setKey 0xA#4 true) = some 0x202#16 ∧
    pcAfter 0xE5A1 (State.reset.setReg 0x5#4 0x0A) = some 0x204#16 := by decide

/-- V-KEY-7, V-KEY-8. -/
theorem test_ld_k : (stepWord 0xF20A ((State.reset.setKey 0x3#4 true).setKey 0x7#4 true)).map
    (fun t => (t.reg 0x2#4, t.pc)) = some (3#8, 0x202#16) ∧
    (stepWord 0xF20A ((State.reset.setKey 0x0#4 true).setReg 0x2#4 9)).map (fun t => (t.reg 0x2#4, t.pc)) =
      some (0#8, 0x202#16) := by decide

/-- V-KEY-6, V-KEY-9, S9. -/
theorem test_ld_k_waits : (stepWord 0xF20A (((State.reset.setReg 0x2#4 0x55).setDt 3).setSt 1)).map
    (fun t => (t.reg 0x2#4, t.pc, t.dt, t.st)) = some (0x55#8, 0x200#16, 2#8, 0#8) ∧
    pcAfter 0xF00A (State.reset.setPc 0xFFE) = some 0xFFE#16 := by decide

/-- V-TMR-5, V-TMR-6. -/
theorem test_ld_from_dt : (stepWord 0xF107 (State.reset.setDt 2)).map (fun t => (t.reg 0x1#4, t.dt)) = some (2#8, 1#8) ∧
    (stepWord 0xF107 (State.reset.setReg 0x1#4 9)).map (fun t => (t.reg 0x1#4, t.dt)) = some (0#8, 0#8) := by decide

/-- V-TMR-2, V-TMR-7. -/
theorem test_ld_dt : (stepWord 0xF015 ((State.reset.setReg 0x0#4 9).setSt 6)).map (fun t => (t.dt, t.st)) =
    some (8#8, 5#8) ∧ (stepWord 0xF015 (State.reset.setReg 0x0#4 0)).map (fun t => t.dt) = some 0#8 ∧
    (stepWord 0xF015 (State.reset.setReg 0x0#4 255)).map (fun t => t.dt) = some 254#8 := by decide

/-- V-TMR-3, V-TMR-4. -/
theorem test_ld_st : (stepWord 0xF018 (State.reset.setReg 0x0#4 4)).map (fun t => (t.st, t.readTone)) =
    some (3#8, true) ∧
    (stepWord 0xF018 (State.reset.setReg 0x0#4 1)).map (fun t => (t.st, t.readTone)) = some (0#8, false) := by decide

/-! ### The host's operations -/

/-- V-FLT-2, V-FLT-3, V-RST-4: SetKey works on a faulted machine, Reset revives it and carries nothing over. -/
theorem test_host_reset : ((State.reset.setFault (some { code := .stackOverflow, pc := 0x200 })).performAll
    [.setKey 0x3#4 true]).map (fun t => (t.key 0x3#4, t.readFault)) = some (true, some (1, 0x200#16)) ∧
    ((State.reset.setFault (some { code := .stackOverflow, pc := 0x200 })).performAll
      [.setKey 0x3#4 true, .reset [0x12, 0x34]]).map (fun t => (t.key 0x3#4, t.readFault, t.fetchWord)) =
      some (false, none, 0x1234#16) := by decide

/-- V-HST-1. -/
theorem test_host_ack : ((State.reset.setDirty true).performAll [.ackRender, .step]).map (fun t => t.readDirty) =
    some false := by decide

/-! ### Witnesses for the hypotheses of the obligations -/

/-- DecodeOfEncodeIsTheInstruction, BytesDecodeToTheInstruction: a mapped and both kinds of unmapped instruction. -/
theorem witness_wellFormed : WellFormed (.drw 0x2#4 0x3#4 0x5#4) ∧ WellFormed (.sys 0xFFF#12) ∧
    WellFormed (.unmapped 0xFFFF#16) := by decide

/-- NoOpWordsAreTheUnmappedWords: a word of each constructor, and one of neither. -/
theorem witness_unmapped : decodeWord 0x0000#16 = .sys 0x000#12 ∧ isUnmappedWord 0x0000#16 = true ∧
    decodeWord 0x5AB1#16 = .unmapped 0x5AB1#16 ∧ isUnmappedWord 0x5AB1#16 = true ∧
    isUnmappedWord 0x00E0#16 = false := by decide

/-- DecoderFollowsTheOpcodeMap: a word that selects a row, and one that selects none. -/
theorem witness_row : (∃ r ∈ opcodeTable, r.selects 0xD235#16 = true) ∧
    (∀ r ∈ opcodeTable, r.selects 0x5AB1#16 = false) := by decide

/-- StepRunsTheDecodedInstruction, with the fetch across the top of memory. -/
theorem witness_stepRuns : ((State.reset.setPc 0xFFF).withFetchWord 16 0x6A55).fault = none ∧
    decodeBytes [Memory.read ((State.reset.setPc 0xFFF).withFetchWord 16 0x6A55).mem
        (((State.reset.setPc 0xFFF).withFetchWord 16 0x6A55).pc.toNat % 4096),
      Memory.read ((State.reset.setPc 0xFFF).withFetchWord 16 0x6A55).mem
        ((((State.reset.setPc 0xFFF).withFetchWord 16 0x6A55).pc.toNat + 1) % 4096)] =
      .ok (.ldVxKk 0xA#4 0x55#8, []) := by decide

/-- FaultedMachineStandsStill. -/
theorem witness_faulted : (State.reset.setFault (some { code := .stackOverflow, pc := 0x200 })).fault ≠ none := by decide

/-- CompletedInstructionTicksBothTimers, ControlGoesToTheTarget: CALL with one free entry left, RET with one saved
address. -/
theorem witness_completes_call : Completes (.call 0xABC#12) (State.reset.setSp 15) :=
  ⟨fun _ _ => by decide, fun h => (nomatch h)⟩

theorem witness_completes_ret : Completes .ret (State.reset.setSp 1) :=
  ⟨fun _ h => (nomatch h), fun _ => by decide⟩

/-- The same obligations, at the two instructions whose own write is ticked. -/
theorem witness_completes_timers : Completes (.ldDtVx 0x0#4) State.reset ∧ Completes (.ldStVx 0x0#4) State.reset :=
  ⟨⟨fun _ h => (nomatch h), fun h => (nomatch h)⟩, ⟨fun _ h => (nomatch h), fun h => (nomatch h)⟩⟩

/-- FaultChangesOnlyTheLatch, both faults. -/
theorem witness_faults : Faults (.call 0xABC#12) (State.reset.setSp 16) .stackOverflow ∧
    Faults .ret State.reset .stackUnderflow :=
  ⟨.inl ⟨rfl, ⟨_, rfl⟩, rfl⟩, .inr ⟨rfl, rfl, rfl⟩⟩

/-- OnlyStackFaultsSetTheLatch, for CALL and for RET. -/
theorem witness_latchChanges : (∃ t, exec (.call 0xABC#12) (State.reset.setSp 16) = .next t ∧
      t.fault ≠ (State.reset.setSp 16).fault) ∧
    (∃ t, exec .ret State.reset = .next t ∧ t.fault ≠ State.reset.fault) :=
  ⟨⟨_, rfl, by decide⟩, ⟨_, rfl, by decide⟩⟩

/-- StepKeepsTheInvariant, StepsKeepKeysAndConfiguration: a step from the last cell with every value at its top. -/
theorem witness_inv : (((State.reset.setPc 0xFFF).setI 0xFFF).setStack 15 0xFFF).Inv ∧
    ∃ t, step (((State.reset.setPc 0xFFF).setI 0xFFF).setStack 15 0xFFF) = .next t :=
  ⟨by decide, _, rfl⟩

/-- RunsKeepTheInvariant: a run with every operation. -/
theorem witness_run : State.reset.Inv ∧
    (State.reset.performAll [.reset [0x00, 0xEE], .setKey 0x5#4 true, .step, .step, .ackRender]).isSome = true := by
  decide

/-- OnlyTwoInstructionsStore, OnlyThreeInstructionsWriteI, OnlyTwoInstructionsWriteTheScreen: RET is none of those
named, and answers a next state. -/
theorem witness_ret_is_other : (∃ t, exec .ret (State.reset.setSp 1) = .next t) ∧ (∀ x, Instr.ret ≠ .ldBVx x) ∧
    (∀ x, Instr.ret ≠ .ldMemVx x) ∧ (∀ nnn, Instr.ret ≠ .ldI nnn) ∧ (∀ x, Instr.ret ≠ .addIVx x) ∧
    (∀ x, Instr.ret ≠ .ldFVx x) ∧ Instr.ret ≠ .cls ∧ (∀ x y n, Instr.ret ≠ .drw x y n) :=
  ⟨⟨_, rfl⟩, by simp⟩

/-- OnlyTwoInstructionsWriteTheScreen, its last clause: DIRTY set before a draw that touches nothing. -/
theorem witness_dirty : ∃ t, exec (.drw 0x0#4 0x0#4 0x0#4) (State.reset.setDirty true) = .next t ∧
    (State.reset.setDirty true).dirty = true := ⟨_, rfl, rfl⟩

/-- OnlyCallAndReturnTouchTheStack: CLS is neither, and CALL with an entry other than the one SP names. -/
theorem witness_stack : (∃ t, exec .cls State.reset = .next t) ∧ (∀ nnn, Instr.cls ≠ .call nnn) ∧ Instr.cls ≠ .ret ∧
    (∃ t, exec (.call 0xABC#12) (State.reset.setSp 15) = .next t) ∧ 14 ≠ (State.reset.setSp 15).sp.val :=
  ⟨⟨_, rfl⟩, by simp, by simp, ⟨_, rfl⟩, by decide⟩

/-- RegistersChangeOnlyWhereNamed: the register after the last one a block load names. -/
theorem witness_registers : (∃ t, exec (.ldVxMem 0x2#4) State.reset = .next t) ∧ ¬ WritesReg (.ldVxMem 0x2#4) 0x3#4 :=
  ⟨⟨_, rfl⟩, by simp [WritesReg]⟩

/-- ProgramCannotSeeDirtySoundOrDeadStack: two states that differ in all three. -/
theorem witness_sameToProgram : SameToProgram (State.reset.setSp 1) ((((State.reset.setSp 1).setStack 1 5).setSt 9).setDirty true) ∧
    (State.reset.setSp 1).stackAt 1 ≠ 5 ∧ (State.reset.setSp 1).st ≠ 9 ∧ (State.reset.setSp 1).dirty ≠ true ∧
    (∃ t, step (State.reset.setSp 1) = .next t) ∧
    ∃ t, step ((((State.reset.setSp 1).setStack 1 5).setSt 9).setDirty true) = .next t :=
  ⟨⟨rfl, rfl, rfl, rfl, rfl, by decide, rfl, rfl, rfl, rfl, rfl, rfl⟩, by decide, by decide, by decide, ⟨_, rfl⟩, ⟨_, rfl⟩⟩

/-- The contents after a Reset with a two-byte image, at the addresses where the regions of R42 meet. -/
def regionEdges (s : State) : Option (List Byte) :=
  (s.load [0x12, 0x34]).map fun t =>
    [0x04F, 0x050, 0x09F, 0x0A0, 0x1FF, 0x200, 0x201, 0x202, 0xFFF].map (Memory.read t.mem)

/-- A machine with another font than the default. -/
def otherFont : State := { State.reset with config := { defaultConfig with font := Vector.replicate 80 0xAB } }

/-- LoadedMemoryMap, LoadResetsEverything: the default font and another one. -/
theorem witness_load : ([0x12#8, 0x34#8] : List Byte).length ≤ 3584 ∧
    regionEdges State.reset = some [0x00#8, 0xF0#8, 0x80#8, 0x00#8, 0x00#8, 0x12#8, 0x34#8, 0x00#8, 0x00#8] ∧
    regionEdges otherFont = some [0x00#8, 0xAB#8, 0xAB#8, 0x00#8, 0x00#8, 0x12#8, 0x34#8, 0x00#8, 0x00#8] := by decide

/-- RunsKeepTheConfiguration: a run with two resets on a machine with another font, which the font region of the last
reset still holds (R4, R42). -/
theorem witness_font : (otherFont.performAll [.reset [], .step, .setKey 0x1#4 true, .reset [0x12, 0x34], .ackRender]).map
    (fun t => (t.readByte 0x050, t.readByte 0x09F, t.config == otherFont.config)) = some (0xAB#8, 0xAB#8, true) := by decide

/-- V-RST-1, V-RST-2; LoadedMemoryMap and OversizedImageIsRefused: the longest image that fits, and the next one. -/
theorem witness_imageLengths : (List.replicate 3584 (0x7F#8)).length ≤ 3584 ∧ 3584 < (List.replicate 3585 (0x7F#8)).length := by
  simp only [List.length_replicate]
  decide

/-- HostOperationsTouchTheirOwnPart: another key than the one set. -/
theorem witness_otherKey : (0x3#4 : BitVec 4) ≠ 0x4#4 := by decide

/-- HostOperationsTouchTheirOwnPart: the latch empty, and with each fault at the top address. -/
theorem witness_reads : State.reset.readFault = none ∧
    (State.reset.setFault (some { code := .stackOverflow, pc := 0xFFF })).readFault = some (1, 0xFFF#16) ∧
    (State.reset.setFault (some { code := .stackUnderflow, pc := 0xFFF })).readFault = some (2, 0xFFF#16) := by decide

set_option maxRecDepth 20000 in
/-- HostOperationsTouchTheirOwnPart: the first pixel of the second row is element 64 of ReadFB, the last pixel of the
last row element 2047 (R20). -/
theorem witness_readFb : (State.reset.setFb (Framebuffer.blank.set 1 1#64)).readFb[64]? = some true ∧
    (State.reset.setFb (Framebuffer.blank.set 31 0x8000000000000000#64)).readFb[2047]? = some true := by decide

/-- StoreIsSeenByTheNextFetch: at the top of memory, where the store wraps. -/
theorem witness_store : 1 ≤ (0x1#4 : Reg).toNat ∧ (State.reset.setPc 0xFFE).fault = none ∧
    (State.reset.setPc 0xFFE).i.toNat % 4096 = ((State.reset.setPc 0xFFE).pc.toNat + 2) % 4096 := by decide

/-- ReturnPopsTheSavedAddress: the fewest and the most saved addresses. -/
theorem witness_saved : 0 < (State.reset.setSp 1).sp.val ∧ 0 < (State.reset.setSp 16).sp.val := by decide

/-- CallSavesTheReturnAddress, ReturnUndoesCall: the most and the fewest free entries. -/
theorem witness_room : State.reset.sp.val < 16 ∧ (State.reset.setSp 15).sp.val < 16 := by decide

/-- JumpToSelfChangesOnlyTheTimers (V-CF-2). -/
theorem witness_jumpToSelf : (State.reset.withFetchWord 16 0x1200).Ended :=
  ⟨by decide, 0x200#12, by decide, by decide⟩

/-- AddWithCarry, SubtractBothWays, ShiftsByOne: the three clauses of `ResultAndFlag`. -/
theorem witness_resultAndFlag : (0xE#4 : Reg) ≠ 0xF#4 ∧ State.reset.config.vfOrder = .flagLast ∧
    ({ State.reset with config := otherSwitches } : State).config.vfOrder = .resultLast := by decide

/-- ShiftsByOne: the operand under each setting of SHIFT_SOURCE. -/
theorem witness_shift : (0x05#8 = if (preset 0x2#4 0x05 0x3#4 0x06).config.shiftSource = .vx then
      (preset 0x2#4 0x05 0x3#4 0x06).reg 0x2#4 else (preset 0x2#4 0x05 0x3#4 0x06).reg 0x3#4) ∧
    (0x06#8 = if ({ preset 0x2#4 0x05 0x3#4 0x06 with config := otherSwitches } : State).config.shiftSource = .vx then
      ({ preset 0x2#4 0x05 0x3#4 0x06 with config := otherSwitches } : State).reg 0x2#4 else
      ({ preset 0x2#4 0x05 0x3#4 0x06 with config := otherSwitches } : State).reg 0x3#4) := by decide

/-- BlockStore, BlockLoad, LoadAfterStoreRestores: the block of one register and that of all sixteen. -/
theorem witness_block : 0 ≤ (0x0#4 : Reg).toNat ∧ 15 ≤ (0xF#4 : Reg).toNat := by decide

/-- A machine about to draw glyph 0 of the font at the origin. -/
def glyphReady : State := State.reset.setI 0x050

/-- DrawXorsTheSprite, DrawingTwiceRestoresTheScreen: glyph 0 covers the origin, which is off. -/
theorem witness_covers : SpriteCovers glyphReady 0 0 5 0 0 ∧ glyphReady.pixel 0 0 = false :=
  ⟨⟨0, by decide, 0, by decide, by decide, by decide, by decide⟩, by decide⟩

/-- DrawXorsTheSprite: glyph 0 covers a pixel that is on. -/
theorem witness_collision : SpriteCovers (glyphReady.setFb allOn) 0 0 5 0 0 ∧
    (glyphReady.setFb allOn).pixel 0 0 = true :=
  ⟨⟨0, by decide, 0, by decide, by decide, by decide, by decide⟩, by decide⟩

/-- DrawXorsTheSprite: a sprite of no rows covers nothing. -/
theorem witness_noCollision : ¬ ∃ col row, SpriteCovers glyphReady 0 0 0 col row ∧ glyphReady.pixel col row = true := by
  rintro ⟨_, _, ⟨k, hk, _⟩, _⟩
  exact absurd hk (Nat.not_lt_zero k)

/-- DrawingTwiceRestoresTheScreen: the origin registers of glyph 0 are not VF, so the second draw has the same origin. -/
theorem witness_drawTwice : ∃ t, exec (.drw 0x0#4 0x1#4 0x5#4) glyphReady = .next t ∧
    t.reg 0x0#4 = glyphReady.reg 0x0#4 ∧ t.reg 0x1#4 = glyphReady.reg 0x1#4 :=
  ⟨_, rfl, by decide, by decide⟩

/-- DrawingTwiceRestoresTheScreen: every pixel of the blank screen is off. -/
theorem witness_allOff : ∀ col < 64, ∀ row < 32, Framebuffer.pixel Framebuffer.blank col row = false := by decide

/-- KeySkips: the key of a value whose high nibble is not 0 (V-KEY-3). -/
theorem witness_keyIndex : (0xA#4 : BitVec 4).toNat = ((State.reset.setReg 0x5#4 0x1A).reg 0x5#4).toNat % 16 := by decide

/-- KeyWait: no key pressed; and the least of two pressed keys. -/
theorem witness_keys : (∀ k, State.reset.key k = false) ∧
    ((State.reset.setKey 0x3#4 true).setKey 0x7#4 true).key 0x3#4 = true ∧
    (∀ j : BitVec 4, j.toNat < (0x3#4 : BitVec 4).toNat →
      ((State.reset.setKey 0x3#4 true).setKey 0x7#4 true).key j = false) := by decide

end Sys2Proof.Tests
end

section
/-! # Runs keep the configuration (spec/00_scope.md rule R4)

The execute phase of each instruction keeps it, so `exec` and `step` do; Reset copies it and the other host operations
do not touch it; a run keeps what every operation keeps. -/

namespace Sys2Proof.Proofs

open Sys2Proof.Machine Sys2Proof.Laws

/-! ### Steps -/

/-- Every execute phase is made of named updates, and each of them keeps the configuration. -/
@[simp] theorem bodyOf_config (i : Instr) (a : State) : (bodyOf i a).config = a.config := by
  cases i
  case ret => exact popToPc_config a
  case call nnn => exact push_config a a.pc
  case seVxKk | sneVxKk | seVxVy | sneVxVy | skp | sknp => exact skipIf_config a _
  case addVxVy x y | subVxVy x y | subnVxVy x y | shr x y | shl x y => exact writeResultAndFlag_config a x _ _
  case drw => exact commitDraw_config a _
  case ldVxK x => exact keyWait_config a x
  case ldMemVx x => exact storeRegs_config a _
  case ldVxMem x => exact loadRegs_config a _
  all_goals rfl

/-- No instruction changes the configuration, whether it completes or faults. -/
theorem exec_config {i : Instr} {s t : State} (h : exec i s = .next t) : t.config = s.config := by
  obtain rfl | ⟨-, -, rfl⟩ | ⟨-, -, rfl⟩ := exec_cases h
  · rw [tick_config, bodyOf_config, advance_config]
  · exact setFault_config s _
  · exact setFault_config s _

/-- No step changes the configuration (R4). -/
theorem step_config {s t : State} (h : step s = .next t) : t.config = s.config := by
  obtain ⟨-, rfl⟩ | ⟨-, hexec⟩ := step_cases h
  · rfl
  · exact exec_config hexec

/-! ### Host operations and runs -/

/-- The operation `step` of the host table is a step that answers a next state. -/
theorem perform_step_eq_some {s t : State} : s.perform .step = some t ↔ step s = .next t := by
  rw [State.perform]
  cases step s <;> simp

/-- What every operation keeps, every run keeps (R216). -/
theorem performAll_keeps {P : State → Prop} (keeps : ∀ {s t : State} {op : HostOp}, P s → s.perform op = some t → P t)
    {ops : List HostOp} {s t : State} (hs : P s) (h : s.performAll ops = some t) : P t := by
  induction ops generalizing s with
  | nil =>
    obtain rfl : s = t := Option.some.inj h
    exact hs
  | cons op ops ih =>
    rw [State.performAll] at h
    split at h
    case h_1 u hop => exact ih (keeps hs hop) h
    case h_2 => cases h

/-- No operation changes the configuration: Reset copies it (R230), the others leave it where it is (R210). -/
theorem perform_config {s t : State} {op : HostOp} (h : s.perform op = some t) : t.config = s.config := by
  cases op with
  | reset image =>
    obtain ⟨-, rfl⟩ := load_cases h
    rfl
  | step => exact step_config (perform_step_eq_some.1 h)
  | setKey k pressed =>
    obtain rfl := Option.some.inj h
    exact setKey_config s k pressed
  | ackRender =>
    obtain rfl := Option.some.inj h
    exact setDirty_config s false

/-- Settles O55: every operation of the run keeps the configuration the run began with. -/
theorem runsKeepTheConfiguration : Obligations.RunsKeepTheConfiguration := by
  intro ops s t h
  exact performAll_keeps (P := fun u => u.config = s.config) (fun hs hop => (perform_config hop).trans hs) rfl h

end Sys2Proof.Proofs
end

section
/-! # What every step and every run keeps (spec/10_state.md rules R22, R28 and R30)

Whatever an instruction does, it does by the named writes of Sys2Proof/Machine/Ops.lean. A property that each of those
writes keeps is therefore kept by every execute phase, by `exec` and by `step`: `KeptByWrites` says what has to be shown
of each write, and `KeptByWrites.step` is the argument over all instructions, made once. -/

namespace Sys2Proof.Proofs

open Sys2Proof.Machine Sys2Proof.Laws

/-! ### Properties that every write keeps -/

/-- Every named write that a step can make keeps `P`. Three of them are made with a particular value only: a stack entry
and the latch take the current PC (R102, R203), and DIRTY is only ever set (R21). -/
structure KeptByWrites (P : State → Prop) : Prop where
  setReg {s : State} (x : Reg) (b : Byte) : P s → P (s.setReg x b)
  setI {s : State} (a : Word) : P s → P (s.setI a)
  setPc {s : State} (a : Word) : P s → P (s.setPc a)
  savePc {s : State} (k : Nat) : P s → P (s.setStack k s.pc)
  setSp {s : State} (k : Fin 17) : P s → P (s.setSp k)
  setDt {s : State} (b : Byte) : P s → P (s.setDt b)
  setSt {s : State} (b : Byte) : P s → P (s.setSt b)
  writeByte {s : State} (a : Word) (b : Byte) : P s → P (s.writeByte a b)
  setFb {s : State} (f : Framebuffer) : P s → P (s.setFb f)
  markDirty {s : State} : P s → P (s.setDirty true)
  setDraws {s : State} (n : Nat) : P s → P (s.setDraws n)
  latch {s : State} (f : Fault) : P s → P (s.setFault (some { code := f, pc := s.pc }))

section

variable {P : State → Prop} (kept : KeptByWrites P) {s : State}

include kept

theorem KeptByWrites.skipIf (c : Bool) (hs : P s) : P (s.skipIf c) := by
  cases c with
  | false => exact hs
  | true => exact kept.setPc _ hs

theorem KeptByWrites.push (hs : P s) : P (s.push s.pc) := by
  unfold State.push
  split
  · exact kept.setSp _ (kept.savePc _ hs)
  · exact hs

theorem KeptByWrites.popToPc (hs : P s) : P s.popToPc := by
  unfold State.popToPc
  split
  · exact kept.setPc _ (kept.setSp _ hs)
  · exact hs

theorem KeptByWrites.writeResultAndFlag (x : Reg) (result : Byte) (flag : Bool) (hs : P s) :
    P (s.writeResultAndFlag x result flag) := by
  unfold State.writeResultAndFlag
  split <;> exact kept.setReg _ _ (kept.setReg _ _ hs)

theorem KeptByWrites.storeRegs (n : Nat) (hs : P s) : P (s.storeRegs n) := by
  induction n with
  | zero => exact hs
  | succ n ih => exact kept.writeByte _ _ ih

theorem KeptByWrites.loadRegs (n : Nat) (hs : P s) : P (s.loadRegs n) := by
  induction n with
  | zero => exact hs
  | succ n ih => exact kept.setReg _ _ ih

theorem KeptByWrites.commitDraw (c : Canvas) (hs : P s) : P (s.commitDraw c) := by
  have drawn : P ((s.setFb c.fb).setReg vf (flagByte c.collision)) := kept.setReg _ _ (kept.setFb _ hs)
  unfold State.commitDraw
  split
  · exact kept.markDirty drawn
  · exact drawn

theorem KeptByWrites.keyWait (x : Reg) (hs : P s) : P (s.keyWait x) := by
  obtain h | ⟨k, -, h⟩ := keyWait_cases s x <;> rw [h]
  · exact kept.setPc _ hs
  · exact kept.setReg _ _ hs

theorem KeptByWrites.tick (hs : P s) : P s.tick := kept.setSt _ (kept.setDt _ hs)

theorem KeptByWrites.bodyOf (i : Instr) (hs : P s) : P (bodyOf i s) := by
  cases i
  case cls => exact kept.markDirty (kept.setFb _ hs)
  case ret => exact kept.popToPc hs
  case call => exact kept.setPc _ (kept.push hs)
  case jp | jpV0 => exact kept.setPc _ hs
  case seVxKk | sneVxKk | seVxVy | sneVxVy | skp | sknp => exact kept.skipIf _ hs
  case ldVxKk | addVxKk | ldVxVy | orVxVy | andVxVy | xorVxVy | ldVxDt => exact kept.setReg _ _ hs
  case addVxVy | subVxVy | shr | subnVxVy | shl => exact kept.writeResultAndFlag _ _ _ hs
  case rnd => exact kept.setDraws _ (kept.setReg _ _ hs)
  case drw => exact kept.commitDraw _ hs
  case ldVxK => exact kept.keyWait _ hs
  case ldDtVx => exact kept.setDt _ hs
  case ldStVx => exact kept.setSt _ hs
  case ldI | addIVx | ldFVx => exact kept.setI _ hs
  case ldBVx => exact kept.writeByte _ _ (kept.writeByte _ _ (kept.writeByte _ _ hs))
  case ldMemVx => exact kept.storeRegs _ hs
  case ldVxMem => exact kept.loadRegs _ hs
  case sys | unmapped => exact hs

theorem KeptByWrites.exec {i : Instr} {t : State} (hs : P s) (h : exec i s = .next t) : P t := by
  obtain rfl | ⟨-, -, rfl⟩ | ⟨-, -, rfl⟩ := exec_cases h
  · exact kept.tick (kept.bodyOf i (kept.setPc _ hs))
  · exact kept.latch _ hs
  · exact kept.latch _ hs

theorem KeptByWrites.step {t : State} (hs : P s) (h : step s = .next t) : P t := by
  obtain ⟨-, rfl⟩ | ⟨-, hexec⟩ := step_cases h
  · exact hs
  · exact kept.exec hs hexec

end

/-! ### The invariant (R30) -/

/-- A stack entry written with an address below 0x1000 leaves all entries below 0x1000. -/
theorem stackAt_setStack_lt {s : State} {a : Word} (hs : ∀ j < 16, (s.stackAt j).toNat < 0x1000)
    (ha : a.toNat < 0x1000) (k : Nat) : ∀ j < 16, ((s.setStack k a).stackAt j).toNat < 0x1000 := by
  intro j hj
  rw [stackAt_setStack]
  split
  · exact ha
  · exact hs j hj

/-- PC and I are masked at every write, a saved or latched address is a PC, and every store keeps the canonical form; the
other writes touch nothing the invariant speaks of. -/
theorem inv_keptByWrites : KeptByWrites State.Inv where
  setReg _ _ hs := hs
  setI a := fun ⟨_, hs⟩ => ⟨mask12_lt a, hs⟩
  setPc a := fun ⟨hi, _, hs⟩ => ⟨hi, mask12_lt a, hs⟩
  savePc k := fun ⟨hi, hpc, hstack, hs⟩ => ⟨hi, hpc, stackAt_setStack_lt hstack hpc k, hs⟩
  setSp _ hs := hs
  setDt _ hs := hs
  setSt _ hs := hs
  writeByte a b := fun ⟨hi, hpc, hstack, hmem, hfault⟩ => ⟨hi, hpc, hstack, wf_writeByte hmem a b, hfault⟩
  setFb _ hs := hs
  markDirty hs := hs
  setDraws _ hs := hs
  latch f := fun ⟨hi, hpc, hstack, hmem, _⟩ => ⟨hi, hpc, hstack, hmem, by rintro r ⟨⟩; exact hpc⟩

/-- Settles O15: each write keeps the invariant, so a step does. -/
theorem stepKeepsTheInvariant : Obligations.StepKeepsTheInvariant := by
  intro s t hs h
  exact inv_keptByWrites.step hs h

@[simp] theorem stackAt_reset (k : Nat) : State.reset.stackAt k = 0 := by
  simp only [State.stackAt, State.reset, Vector.getElem?_replicate]
  split <;> rfl

/-- Settles O14: the reset values are below 0x1000, memory lists nothing and the latch is empty. -/
theorem resetMeetsTheInvariant : Obligations.ResetMeetsTheInvariant := by
  refine ⟨by decide, by decide, fun k _ => ?_, wf_reset, nofun⟩
  rw [stackAt_reset]
  decide

/-- Reset sets everything but memory as `State.reset` does, and both copies of the loader fit in memory (R42, R232). -/
theorem load_inv {s t : State} {image : List Byte} (h : s.load image = some t) : t.Inv := by
  obtain ⟨hlen, rfl⟩ := load_cases h
  obtain ⟨hi, hpc, hstack, hmem, hfault⟩ := resetMeetsTheInvariant
  have hfont : fontBase + s.config.font.toList.length ≤ memSize := by
    rw [Vector.length_toList]
    decide
  have himage : progBase + image.length ≤ memSize := Nat.add_le_add_left hlen progBase
  exact ⟨hi, hpc, hstack, wf_copyIn (wf_copyIn hmem fontBase _ hfont) progBase image himage, hfault⟩

/-- Reset establishes the invariant, a step keeps it, and the other host operations write fields it does not mention. -/
theorem perform_inv {s t : State} {op : HostOp} (hs : s.Inv) (h : s.perform op = some t) : t.Inv := by
  cases op with
  | reset image => exact load_inv h
  | step => exact stepKeepsTheInvariant s t hs (perform_step_eq_some.1 h)
  | setKey k pressed =>
    obtain rfl := Option.some.inj h
    exact hs
  | ackRender =>
    obtain rfl := Option.some.inj h
    exact hs

/-- Settles O16: every operation of the run keeps the invariant. -/
theorem runsKeepTheInvariant : Obligations.RunsKeepTheInvariant := by
  intro ops s t hs h
  exact performAll_keeps perform_inv hs h

/-! ### The key latch (R22) -/

/-- No write of a step is to the key latch. -/
theorem keys_keptByWrites (keys : Vector Bool 16) : KeptByWrites fun u => u.keys = keys where
  setReg _ _ hs := hs
  setI _ hs := hs
  setPc _ hs := hs
  savePc _ hs := hs
  setSp _ hs := hs
  setDt _ hs := hs
  setSt _ hs := hs
  writeByte _ _ hs := hs
  setFb _ hs := hs
  markDirty hs := hs
  setDraws _ hs := hs
  latch _ hs := hs

/-- Settles O17: the key latch is written by no step, nor is the configuration. -/
theorem stepsKeepKeysAndConfiguration : Obligations.StepsKeepKeysAndConfiguration := by
  intro s t h
  have hkeys : t.keys = s.keys := (keys_keptByWrites s.keys).step rfl h
  exact ⟨fun k => by simp only [State.key, hkeys], step_config h⟩

end Sys2Proof.Proofs
end

section
/-! # What a program cannot see (spec/10_state.md rules R16, R19, R21 and R25)

`SameToProgram` is a simulation of the machine by itself: in two states that look the same to a program, what it reads is
equal, and the same write to both leaves them looking the same. So do an execute phase, a fault and a step. -/

namespace Sys2Proof.Proofs

open Sys2Proof.Machine Sys2Proof.Laws

/-! ### An instruction completes or faults -/

/-- Every instruction completes or faults (R200, R205). -/
theorem completes_or_faults (i : Instr) (s : State) : Completes i s ∨ ∃ f, Faults i s f := by
  have hsp := s.sp.isLt
  cases i
  case call nnn =>
    by_cases h : s.sp.val = 16
    · exact .inr ⟨.stackOverflow, .inl ⟨rfl, ⟨nnn, rfl⟩, h⟩⟩
    · exact .inl ⟨fun _ _ => by omega, nofun⟩
  case ret =>
    by_cases h : s.sp.val = 0
    · exact .inr ⟨.stackUnderflow, .inr ⟨rfl, rfl, h⟩⟩
    · exact .inl ⟨nofun, fun _ => by omega⟩
  all_goals exact .inl ⟨nofun, nofun⟩

/-- An instruction that completes is the default advance, its execute phase and the tick (R80). -/
theorem exec_of_completes {i : Instr} {s : State} (h : Completes i s) :
    exec i s = .next (bodyOf i s.advance).tick := by
  obtain ⟨hcall, hret⟩ := h
  cases i
  case call nnn => exact exec_call nnn (Nat.ne_of_lt (hcall nnn rfl))
  case ret => exact exec_ret (Nat.ne_of_gt (hret rfl))
  all_goals refine exec_of_plain ?_ ?_ s <;> nofun

/-- An instruction that faults writes the latch and nothing else (R203). -/
theorem exec_of_faults {i : Instr} {s : State} {f : Fault} (h : Faults i s f) :
    exec i s = .next (s.setFault (some { code := f, pc := s.pc })) := by
  obtain ⟨rfl, ⟨nnn, rfl⟩, hsp⟩ | ⟨rfl, rfl, hsp⟩ := h
  · exact if_pos hsp
  · exact if_pos hsp

end Sys2Proof.Proofs

namespace Sys2Proof.Machine

open Sys2Proof.Laws Sys2Proof.Proofs

/-- `t` with what a program cannot see taken from `s`. -/
def State.withUnseenOf (t s : State) : State := { t with stack := s.stack, st := s.st, dirty := s.dirty }

variable {s t : State}

/-- `SameToProgram` in two parts: one equation, and the stack entries below SP. -/
theorem sameToProgram_iff :
    SameToProgram s t ↔ s = t.withUnseenOf s ∧ ∀ k < s.sp.val, s.stackAt k = t.stackAt k := by
  constructor
  · rintro ⟨hmem, hv, hi, hpc, hsp, hstack, hdt, hfb, hkeys, hfault, hconfig, hdraws⟩
    refine ⟨?_, hstack⟩
    rw [State.withUnseenOf, ← hmem, ← hv, ← hi, ← hpc, ← hsp, ← hdt, ← hfb, ← hkeys, ← hfault, ← hconfig, ← hdraws]
  · rintro ⟨h, hstack⟩
    have read {α : Type} (f : State → α) : f s = f (t.withUnseenOf s) := congrArg f h
    exact ⟨read State.mem, read State.v, read State.i, read State.pc, read State.sp, hstack, read State.dt,
      read State.fb, read State.keys, read State.fault, read State.config, read State.draws⟩

namespace SameToProgram

/-- The two states differ only in what a program cannot see. -/
theorem eq (h : SameToProgram s t) : s = t.withUnseenOf s := (sameToProgram_iff.1 h).1

theorem stackAt (h : SameToProgram s t) : ∀ k < s.sp.val, s.stackAt k = t.stackAt k := (sameToProgram_iff.1 h).2

/-! ### What a program reads -/

section

variable (h : SameToProgram s t)

include h

/-- What is read of `s` is what is read of `t` with the unseen part of `s`; so a reader of the rest reads the same of
both states. -/
theorem read {α : Type} (f : State → α) : f s = f (t.withUnseenOf s) := congrArg f h.eq

theorem reg (x : Reg) : s.reg x = t.reg x := h.read (State.reg · x)
theorem key (k : BitVec 4) : s.key k = t.key k := h.read (State.key · k)
theorem readByte (a : Word) : s.readByte a = t.readByte a := h.read (State.readByte · a)
theorem fetchWord : s.fetchWord = t.fetchWord := h.read State.fetchWord
theorem i : s.i = t.i := h.read State.i
theorem pc : s.pc = t.pc := h.read State.pc
theorem sp : s.sp = t.sp := h.read State.sp
theorem dt : s.dt = t.dt := h.read State.dt
theorem fb : s.fb = t.fb := h.read State.fb
theorem fault : s.fault = t.fault := h.read State.fault
theorem config : s.config = t.config := h.read State.config
theorem draws : s.draws = t.draws := h.read State.draws
theorem firstPressed : firstPressed s = firstPressed t := h.read Machine.firstPressed

theorem shiftOperand (x y : Reg) : shiftOperand s x y = shiftOperand t x y :=
  h.read (Machine.shiftOperand · x y)

theorem drawRows (x0 y0 : Byte) (n : Nat) : drawRows s x0 y0 n = drawRows t x0 y0 n := by
  induction n with
  | zero => simp only [Machine.drawRows, h.fb]
  | succ n ih => simp only [Machine.drawRows, ih, h.readByte, h.i]

/-! ### The same write to both states -/

theorem setReg (x : Reg) (b : Byte) : SameToProgram (s.setReg x b) (t.setReg x b) :=
  sameToProgram_iff.2 ⟨congrArg (State.setReg · x b) h.eq, h.stackAt⟩

theorem setI (a : Word) : SameToProgram (s.setI a) (t.setI a) :=
  sameToProgram_iff.2 ⟨congrArg (State.setI · a) h.eq, h.stackAt⟩

theorem setPc (a : Word) : SameToProgram (s.setPc a) (t.setPc a) :=
  sameToProgram_iff.2 ⟨congrArg (State.setPc · a) h.eq, h.stackAt⟩

theorem setDt (b : Byte) : SameToProgram (s.setDt b) (t.setDt b) :=
  sameToProgram_iff.2 ⟨congrArg (State.setDt · b) h.eq, h.stackAt⟩

theorem writeByte (a : Word) (b : Byte) : SameToProgram (s.writeByte a b) (t.writeByte a b) :=
  sameToProgram_iff.2 ⟨congrArg (State.writeByte · a b) h.eq, h.stackAt⟩

theorem setFb (f : Framebuffer) : SameToProgram (s.setFb f) (t.setFb f) :=
  sameToProgram_iff.2 ⟨congrArg (State.setFb · f) h.eq, h.stackAt⟩

theorem setDraws (n : Nat) : SameToProgram (s.setDraws n) (t.setDraws n) :=
  sameToProgram_iff.2 ⟨congrArg (State.setDraws · n) h.eq, h.stackAt⟩

theorem setFault (r : Option FaultRecord) : SameToProgram (s.setFault r) (t.setFault r) :=
  sameToProgram_iff.2 ⟨congrArg (State.setFault · r) h.eq, h.stackAt⟩

/-- ST may take any two values. -/
theorem setSt (b c : Byte) : SameToProgram (s.setSt b) (t.setSt c) :=
  sameToProgram_iff.2 ⟨congrArg (State.setSt · b) h.eq, h.stackAt⟩

/-- DIRTY may take any two values. -/
theorem setDirty (d e : Bool) : SameToProgram (s.setDirty d) (t.setDirty e) :=
  sameToProgram_iff.2 ⟨congrArg (State.setDirty · d) h.eq, h.stackAt⟩

/-- Lowering SP only hides entries. -/
theorem setSp {k : Fin 17} (hk : k.val ≤ s.sp.val) : SameToProgram (s.setSp k) (t.setSp k) :=
  sameToProgram_iff.2 ⟨congrArg (State.setSp · k) h.eq, fun j hj => h.stackAt j (Nat.lt_of_lt_of_le hj hk)⟩

/-! ### Shared operations -/

theorem advance : SameToProgram s.advance t.advance := by
  rw [State.advance, State.advance, h.pc]
  exact h.setPc _

theorem tick : SameToProgram s.tick t.tick := by
  rw [State.tick, State.tick, h.dt]
  exact (h.setDt _).setSt _ _

theorem skipIf (c : Bool) : SameToProgram (s.skipIf c) (t.skipIf c) := by
  cases c with
  | false => exact h
  | true => exact h.advance

/-- A push shows one more entry, which both states have just written. -/
theorem push (a : Word) : SameToProgram (s.push a) (t.push a) := by
  unfold State.push
  simp only [← h.sp]
  split
  · have hpush := congrArg (fun u => (u.setStack s.sp.val a).setSp ⟨s.sp.val + 1, by omega⟩) h.eq
    refine sameToProgram_iff.2 ⟨hpush, fun j hj => ?_⟩
    simp only [setSp_sp] at hj
    simp only [stackAt_setSp, stackAt_setStack]
    split
    · rfl
    · exact h.stackAt j (by omega)
  · exact h

/-- A pop reads the entry below SP, which the states share. -/
theorem popToPc : SameToProgram s.popToPc t.popToPc := by
  unfold State.popToPc
  simp only [← h.sp]
  split
  · rw [h.stackAt _ (by omega)]
    exact (h.setSp (Nat.sub_le _ _)).setPc _
  · exact h

theorem writeResultAndFlag (x : Reg) (result : Byte) (flag : Bool) :
    SameToProgram (s.writeResultAndFlag x result flag) (t.writeResultAndFlag x result flag) := by
  unfold State.writeResultAndFlag
  rw [h.config]
  split <;> exact (h.setReg _ _).setReg _ _

theorem storeRegs (n : Nat) : SameToProgram (s.storeRegs n) (t.storeRegs n) := by
  induction n with
  | zero => exact h
  | succ n ih =>
    simp only [State.storeRegs, h.i, h.reg]
    exact ih.writeByte _ _

theorem loadRegs (n : Nat) : SameToProgram (s.loadRegs n) (t.loadRegs n) := by
  induction n with
  | zero => exact h
  | succ n ih =>
    simp only [State.loadRegs, h.i, h.readByte]
    exact ih.setReg _ _

theorem commitDraw (c : Canvas) : SameToProgram (s.commitDraw c) (t.commitDraw c) := by
  unfold State.commitDraw
  split
  · exact ((h.setFb _).setReg _ _).setDirty _ _
  · exact (h.setFb _).setReg _ _

theorem keyWait (x : Reg) : SameToProgram (s.keyWait x) (t.keyWait x) := by
  simp only [State.keyWait, h.firstPressed, h.pc]
  split
  · exact h.setPc _
  · exact h.setReg _ _

/-! ### Instructions and steps -/

/-- Each execute phase makes, in both states, the same write of the same values read. -/
theorem bodyOf (i : Instr) : SameToProgram (bodyOf i s) (bodyOf i t) := by
  cases i <;> simp only [Laws.bodyOf, h.reg, h.key, h.i, h.pc, h.dt, h.draws, h.shiftOperand, h.drawRows]
  case cls => exact (h.setFb _).setDirty _ _
  case ret => exact h.popToPc
  case call => exact (h.push _).setPc _
  case jp | jpV0 => exact h.setPc _
  case seVxKk | sneVxKk | seVxVy | sneVxVy | skp | sknp => exact h.skipIf _
  case ldVxKk | addVxKk | ldVxVy | orVxVy | andVxVy | xorVxVy | ldVxDt => exact h.setReg _ _
  case addVxVy | subVxVy | shr | subnVxVy | shl => exact h.writeResultAndFlag _ _ _
  case rnd => exact (h.setReg _ _).setDraws _
  case drw => exact h.commitDraw _
  case ldVxK => exact h.keyWait _
  case ldDtVx => exact h.setDt _
  case ldStVx => exact h.setSt _ _
  case ldI | addIVx | ldFVx => exact h.setI _
  case ldBVx => exact ((h.writeByte _ _).writeByte _ _).writeByte _ _
  case ldMemVx => exact h.storeRegs _
  case ldVxMem => exact h.loadRegs _
  case sys | unmapped => exact h

/-- Whether an instruction completes, and how it faults if it does not, is decided by SP, which the states share. -/
theorem exec {i : Instr} {s' t' : State} (hs : exec i s = .next s') (ht : exec i t = .next t') :
    SameToProgram s' t' := by
  obtain hc | ⟨f, hf⟩ := completes_or_faults i s
  · have hc' : Completes i t := by rwa [Completes, ← h.sp]
    obtain rfl := Host.Outcome.next.inj ((exec_of_completes hc).symm.trans hs)
    obtain rfl := Host.Outcome.next.inj ((exec_of_completes hc').symm.trans ht)
    exact (h.advance.bodyOf i).tick
  · have hf' : Faults i t f := by rwa [Faults, ← h.sp]
    obtain rfl := Host.Outcome.next.inj ((exec_of_faults hf).symm.trans hs)
    obtain rfl := Host.Outcome.next.inj ((exec_of_faults hf').symm.trans ht)
    rw [h.pc]
    exact h.setFault _

/-- Both states are faulted, or both fetch the same word. -/
theorem step {s' t' : State} (hs : step s = .next s') (ht : step t = .next t') : SameToProgram s' t' := by
  obtain ⟨hfs, rfl⟩ | ⟨hfs, hs⟩ := step_cases hs <;> obtain ⟨hft, rfl⟩ | ⟨hft, ht⟩ := step_cases ht
  · exact h
  · exact absurd (h.fault.trans hft) hfs
  · exact absurd (h.fault.symm.trans hfs) hft
  · rw [← h.fetchWord] at ht
    exact h.exec hs ht

end
end SameToProgram
end Sys2Proof.Machine

namespace Sys2Proof.Proofs

open Sys2Proof.Machine

/-- Settles O23: the simulation, at one step of each state. -/
theorem programCannotSeeDirtySoundOrDeadStack : Obligations.ProgramCannotSeeDirtySoundOrDeadStack := by
  intro s s' t t' h hs hs'
  exact h.step hs hs'

end Sys2Proof.Proofs
end

section
/-! # Who writes what (spec/10_state.md rules R11, R12, R14, R16, R17, R20 and R21)

For each field: the instructions that write it are the exceptions of a lemma about `bodyOf`; the execute phase of every
other instruction keeps it. The default advance, the tick and a fault write none of these fields, so `exec` keeps what
the execute phase keeps. -/

namespace Sys2Proof.Proofs

open Sys2Proof.Machine Sys2Proof.Laws

variable {i : Instr} {s t : State}

/-- What holds after the execute phase and the tick, and after a fault, holds after the instruction. -/
theorem exec_ends {P : State → Prop} (h : exec i s = .next t) (retired : P (bodyOf i s.advance).tick)
    (faulted : ∀ r, P (s.setFault r)) : P t := by
  obtain rfl | ⟨-, -, rfl⟩ | ⟨-, -, rfl⟩ := exec_cases h
  · exact retired
  · exact faulted _
  · exact faulted _

/-! ### The address register (R14) -/

theorem bodyOf_i (a : State) (hld : ∀ nnn, i ≠ .ldI nnn) (hadd : ∀ x, i ≠ .addIVx x) (hfont : ∀ x, i ≠ .ldFVx x) :
    (bodyOf i a).i = a.i := by
  cases i
  case ldI nnn => exact absurd rfl (hld nnn)
  case addIVx x => exact absurd rfl (hadd x)
  case ldFVx x => exact absurd rfl (hfont x)
  all_goals simp [bodyOf]

/-- Settles O19: LD I, ADD I and LD F are the exceptions. -/
theorem onlyThreeInstructionsWriteI : Obligations.OnlyThreeInstructionsWriteI := by
  intro i s t h hld hadd hfont
  exact exec_ends (P := fun u => u.i = s.i) h (bodyOf_i s.advance hld hadd hfont) fun _ => rfl

/-! ### The call stack (R16, R17) -/

theorem bodyOf_sp (a : State) (hcall : ∀ nnn, i ≠ .call nnn) (hret : i ≠ .ret) : (bodyOf i a).sp = a.sp := by
  cases i
  case call nnn => exact absurd rfl (hcall nnn)
  case ret => exact absurd rfl hret
  all_goals simp [bodyOf]

/-- RET, too, keeps the entry it pops (decision D22). -/
theorem bodyOf_stack (a : State) (hcall : ∀ nnn, i ≠ .call nnn) : (bodyOf i a).stack = a.stack := by
  cases i
  case call nnn => exact absurd rfl (hcall nnn)
  all_goals simp [bodyOf]

theorem stackAt_push_ne (a : State) (w : Word) {k : Nat} (hk : k ≠ a.sp.val) : (a.push w).stackAt k = a.stackAt k := by
  unfold State.push
  split
  · rw [stackAt_setSp, stackAt_setStack, if_neg fun h => hk h.1]
  · rfl

theorem stackAt_bodyOf_ne (i : Instr) (a : State) {k : Nat} (hk : k ≠ a.sp.val) :
    (bodyOf i a).stackAt k = a.stackAt k := by
  by_cases hcall : ∃ nnn, i = .call nnn
  · obtain ⟨nnn, rfl⟩ := hcall
    exact stackAt_push_ne a a.pc hk
  · simp only [State.stackAt, bodyOf_stack a fun nnn h => hcall ⟨nnn, h⟩]

/-- Settles O20: CALL and RET are the exceptions, and CALL writes the entry SP names. -/
theorem onlyCallAndReturnTouchTheStack : Obligations.OnlyCallAndReturnTouchTheStack := by
  intro i s t h
  refine ⟨fun hcall hret => ?_, fun hcall => ?_, fun k hk => ?_⟩
  · exact exec_ends (P := fun u => u.sp = s.sp) h (bodyOf_sp s.advance hcall hret) fun _ => rfl
  · exact exec_ends (P := fun u => u.stack = s.stack) h (bodyOf_stack s.advance hcall) fun _ => rfl
  · exact exec_ends (P := fun u => u.stackAt k = s.stackAt k) h (stackAt_bodyOf_ne i s.advance hk) fun _ => rfl

/-! ### The screen (R20, R21) -/

theorem bodyOf_screen (a : State) (hcls : i ≠ .cls) (hdrw : ∀ x y n, i ≠ .drw x y n) :
    (bodyOf i a).fb = a.fb ∧ (bodyOf i a).dirty = a.dirty := by
  cases i
  case cls => exact absurd rfl hcls
  case drw x y n => exact absurd rfl (hdrw x y n)
  all_goals simp [bodyOf]

/-- No write of a step clears DIRTY (decision D18). -/
theorem dirty_keptByWrites : KeptByWrites fun u => u.dirty = true where
  setReg _ _ hs := hs
  setI _ hs := hs
  setPc _ hs := hs
  savePc _ hs := hs
  setSp _ hs := hs
  setDt _ hs := hs
  setSt _ hs := hs
  writeByte _ _ hs := hs
  setFb _ hs := hs
  markDirty _ := rfl
  setDraws _ hs := hs
  latch _ hs := hs

/-- Settles O21: CLS and DRW are the exceptions, and they only set DIRTY. -/
theorem onlyTwoInstructionsWriteTheScreen : Obligations.OnlyTwoInstructionsWriteTheScreen := by
  intro i s t h
  refine ⟨fun hcls hdrw => ?_, fun hdirty => dirty_keptByWrites.exec hdirty h⟩
  exact exec_ends (P := fun u => u.fb = s.fb ∧ u.dirty = s.dirty) h (bodyOf_screen s.advance hcls hdrw)
    fun _ => ⟨rfl, rfl⟩

/-! ### The general registers (R11, R12) -/

theorem reg_writeResultAndFlag_ne (a : State) {x r : Reg} (result : Byte) (flag : Bool) (hr : ¬ (r = x ∨ r = vf)) :
    (a.writeResultAndFlag x result flag).reg r = a.reg r := by
  obtain ⟨hx, hvf⟩ := not_or.1 hr
  rw [reg_writeResultAndFlag, if_neg hvf, if_neg hx]

theorem reg_keyWait_ne (a : State) {x r : Reg} (hr : r ≠ x) : (a.keyWait x).reg r = a.reg r := by
  obtain h | ⟨k, -, h⟩ := keyWait_cases a x <;> rw [h]
  · exact reg_setPc a _ r
  · exact reg_setReg_ne a _ hr

theorem reg_loadRegs_above (a : State) {x r : Reg} (hr : ¬ r.toNat ≤ x.toNat) :
    (a.loadRegs (x.toNat + 1)).reg r = a.reg r := by
  have hx := x.isLt
  rw [reg_loadRegs a _ (by omega), if_neg (by omega)]

/-- The execute phase writes only the registers `WritesReg` names. -/
theorem reg_bodyOf (a : State) {r : Reg} (hr : ¬ WritesReg i r) : (bodyOf i a).reg r = a.reg r := by
  cases i
  case ldVxKk | addVxKk | ldVxVy | orVxVy | andVxVy | xorVxVy | ldVxDt | rnd => exact reg_setReg_ne a _ hr
  case addVxVy | subVxVy | shr | subnVxVy | shl => exact reg_writeResultAndFlag_ne a _ _ hr
  case drw => exact (reg_commitDraw a _ r).trans (if_neg hr)
  case ldVxK => exact reg_keyWait_ne a hr
  case ldVxMem => exact reg_loadRegs_above a hr
  all_goals simp [bodyOf, State.reg]

/-- Settles O22: the registers `WritesReg` names are the exceptions. -/
theorem registersChangeOnlyWhereNamed : Obligations.RegistersChangeOnlyWhereNamed := by
  intro i s t r h hr
  exact exec_ends (P := fun u => u.reg r = s.reg r) h (reg_bodyOf s.advance hr) fun _ => rfl

/-! ### Reset (R29, R230) -/

/-- Copying into empty memory the bytes its cells hold after reset lists nothing. -/
theorem copyIn_resetBytes {base : Nat} {bytes : List Byte}
    (h : ∀ k (hk : k < bytes.length), bytes[k] = resetByte (base + k)) : Memory.copyIn [] base bytes = [] := by
  induction bytes generalizing base with
  | nil => rfl
  | cons b bytes ih =>
    have hb : Memory.write [] base b = [] := if_pos (h 0 (Nat.zero_lt_succ _))
    rw [Memory.copyIn, hb]
    refine ih fun k hk => ?_
    rw [Nat.add_right_comm]
    exact h (k + 1) (Nat.succ_lt_succ hk)

/-- The default font is what the font region holds after reset (R42, R53). -/
theorem copyIn_defaultFont : Memory.copyIn [] fontBase defaultFont.toList = [] := by
  refine copyIn_resetBytes fun k hk => ?_
  have hsize : k < fontSize := by rwa [Vector.length_toList] at hk
  rw [resetByte, if_pos ⟨Nat.le_add_right .., Nat.add_lt_add_left hsize fontBase⟩, Nat.add_sub_cancel_left]
  exact List.getElem_eq_getD 0

theorem load_reset_nil : State.reset.load [] = some State.reset := by
  have hfont : Memory.copyIn [] fontBase State.reset.config.font.toList = [] := copyIn_defaultFont
  simp only [State.load, List.length_nil, Nat.zero_le, if_true, hfont]
  rfl

theorem pixel_blank (col row : Nat) : Framebuffer.pixel Framebuffer.blank col row = false := by
  simp only [Framebuffer.pixel, Framebuffer.blank, Vector.getElem?_replicate]
  split <;> exact BitVec.getLsbD_zero

/-- Settles O25: Reset takes every field but memory, configuration and random stream from `State.reset`. -/
theorem loadResetsEverything : Obligations.LoadResetsEverything := by
  refine ⟨load_reset_nil, fun s t image h => ?_⟩
  obtain ⟨-, rfl⟩ := load_cases h
  exact ⟨rfl, rfl, fun r => Vector.getElem_replicate r.isLt, rfl, fun k _ => stackAt_reset k, rfl, rfl,
    fun col _ row _ => pixel_blank col row, rfl, fun k => Vector.getElem_replicate k.isLt, rfl⟩

end Sys2Proof.Proofs
end

section
/-! # The bytes of an instruction decode to it (spec/30_encoding.md rules R44, R60 to R66 and R70)

The fields of a word that a format made are the operands it was made from; the decoder reads those fields, so it finds
the instruction again. The two no-op constructors hold a word or address that no other instruction has. -/

namespace Sys2Proof.Proofs

open Sys2Proof.Machine Sys2Proof.Laws

/-! ### The fields of each format (R61, R62) -/

section

variable (op : BitVec 4) (x y : Reg) (n : Nibble) (kk : Byte) (nnn : Addr)

@[simp] theorem fieldOp_formatNnn : fieldOp (formatNnn op nnn) = op := BitVec.extractLsb'_append_eq_left

@[simp] theorem fieldNnn_formatNnn : fieldNnn (formatNnn op nnn) = nnn := BitVec.extractLsb'_append_eq_right

@[simp] theorem fieldOp_formatXkk : fieldOp (formatXkk op x kk) = op := fieldOp_formatNnn op (x ++ kk)

@[simp] theorem fieldX_formatXkk : fieldX (formatXkk op x kk) = x := by
  have h : fieldX (formatXkk op x kk) = (x ++ kk).extractLsb' 8 4 :=
    BitVec.extractLsb'_append_eq_of_add_le (by decide)
  exact h.trans BitVec.extractLsb'_append_eq_left

/-- A field inside the low byte of a word of format XKK is that field of the byte. -/
theorem extractLsb'_formatXkk {start len : Nat} (h : start + len ≤ 8) :
    (formatXkk op x kk).extractLsb' start len = kk.extractLsb' start len := by
  have hnnn : (formatXkk op x kk).extractLsb' start len = (x ++ kk).extractLsb' start len :=
    BitVec.extractLsb'_append_eq_of_add_le (by omega)
  exact hnnn.trans (BitVec.extractLsb'_append_eq_of_add_le h)

@[simp] theorem fieldKk_formatXkk : fieldKk (formatXkk op x kk) = kk :=
  (extractLsb'_formatXkk op x kk (by decide)).trans BitVec.extractLsb'_eq_self

@[simp] theorem fieldOp_formatXyn : fieldOp (formatXyn op x y n) = op := fieldOp_formatXkk op x (y ++ n)

@[simp] theorem fieldX_formatXyn : fieldX (formatXyn op x y n) = x := fieldX_formatXkk op x (y ++ n)

@[simp] theorem fieldY_formatXyn : fieldY (formatXyn op x y n) = y :=
  (extractLsb'_formatXkk op x (y ++ n) (by decide)).trans BitVec.extractLsb'_append_eq_left

@[simp] theorem fieldN_formatXyn : fieldN (formatXyn op x y n) = n :=
  (extractLsb'_formatXkk op x (y ++ n) (by decide)).trans BitVec.extractLsb'_append_eq_right

end

/-! ### The fields as numbers -/

theorem fieldOp_toNat (w : Word) : (fieldOp w).toNat = w.toNat / 0x1000 := by
  have hw := w.isLt
  rw [fieldOp, BitVec.extractLsb'_toNat, Nat.shiftRight_eq_div_pow]
  omega

theorem fieldN_eq_iff (w : Word) (n : Nibble) : fieldN w = n ↔ w.toNat % 0x10 = n.toNat := by
  rw [← BitVec.toNat_inj, fieldN, BitVec.extractLsb'_toNat]
  rfl

theorem fieldKk_eq_iff (w : Word) (kk : Byte) : fieldKk w = kk ↔ w.toNat % 0x100 = kk.toNat := by
  rw [← BitVec.toNat_inj, fieldKk, BitVec.extractLsb'_toNat]
  rfl

/-! ### The no-op words (R66, R85) -/

/-- An address that spells neither CLS nor RET is SYS's. -/
theorem decodeWord_sys {nnn : Addr} (h : sysAddressOk nnn = true) : decodeWord (formatNnn 0x0#4 nnn) = .sys nnn := by
  have hne : ∀ w : Word, sysAddressOk (fieldNnn w) = false → formatNnn 0x0#4 nnn ≠ w := by
    rintro _ hw rfl
    simp [h] at hw
  have hdecode : decodeWord (formatNnn 0x0#4 nnn) = decodeFamily0 (formatNnn 0x0#4 nnn) := by
    simp only [decodeWord, fieldOp_formatNnn, BitVec.toNat_ofNat]
  rw [hdecode, decodeFamily0, if_neg (hne _ (by decide)), if_neg (hne _ (by decide)), fieldNnn_formatNnn]

theorem decodeFamily8_of_noSubCode {w : Word} (h : family8SubCodes.contains (w.toNat % 0x10) = false) :
    decodeFamily8 w = .unmapped w := by
  simp_all [family8SubCodes, decodeFamily8, fieldN_eq_iff]

theorem decodeFamilyE_of_noSubCode {w : Word} (h : familyESubCodes.contains (w.toNat % 0x100) = false) :
    decodeFamilyE w = .unmapped w := by
  simp_all [familyESubCodes, decodeFamilyE, fieldKk_eq_iff]

theorem decodeFamilyF_of_noSubCode {w : Word} (h : familyFSubCodes.contains (w.toNat % 0x100) = false) :
    decodeFamilyF w = .unmapped w := by
  simp_all [familyFSubCodes, decodeFamilyF, fieldKk_eq_iff]

/-- A word that the table of R66 lists outside family 0 selects no sub-code of its family. -/
theorem decodeWord_unmapped {w : Word} (h : unmappedWordOk w = true) : decodeWord w = .unmapped w := by
  obtain ⟨hlisted, hfamily⟩ := Bool.and_eq_true_iff.1 h
  unfold isUnmappedWord at hlisted
  unfold decodeWord
  rw [fieldOp_toNat]
  split at hlisted
  case h_1 h0 => simp [h0] at hfamily
  case h_2 h5 => simp_all [fieldN_eq_iff]
  case h_3 h8 => simpa [h8] using decodeFamily8_of_noSubCode (by simpa using hlisted)
  case h_4 h9 => simp_all [fieldN_eq_iff]
  case h_5 hE => simpa [hE] using decodeFamilyE_of_noSubCode (by simpa using hlisted)
  case h_6 hF => simpa [hF] using decodeFamilyF_of_noSubCode (by simpa using hlisted)
  case h_7 => cases hlisted

/-! ### Words and bytes -/

/-- The decoder undoes the encoder (R64, R65). -/
theorem decodeWord_encode {i : Instr} (h : WellFormed i) : decodeWord (encode i) = i := by
  cases i
  case cls | ret => rfl
  case sys nnn => exact decodeWord_sys h
  case unmapped w => exact decodeWord_unmapped h
  case jp | call | ldI | jpV0 | seVxKk | sneVxKk | ldVxKk | addVxKk | rnd | seVxVy | sneVxVy | drw =>
    simp [encode, decodeWord]
  case ldVxVy | orVxVy | andVxVy | xorVxVy | addVxVy | subVxVy | shr | subnVxVy | shl =>
    simp [encode, decodeWord, decodeFamily8]
  case skp | sknp => simp [encode, decodeWord, decodeFamilyE]
  case ldVxDt | ldVxK | ldDtVx | ldStVx | addIVx | ldFVx | ldBVx | ldMemVx | ldVxMem =>
    simp [encode, decodeWord, decodeFamilyF]

/-- The big-endian word of the two bytes of a word is the word (R44). -/
@[simp] theorem wordOfBytes_hiByte_loByte (w : Word) : wordOfBytes (hiByte w) (loByte w) = w :=
  BitVec.extractLsb'_append_extractLsb' (w := 8) (len := 8)

/-- Settles O6: the two bytes make up the encoded word, which decodes to the instruction. -/
theorem bytesDecodeToTheInstruction : Obligations.BytesDecodeToTheInstruction := by
  intro i rest h
  have hdecode : decodeWord (wordOfBytes (hiByte (encode i)) (loByte (encode i))) = i := by
    rw [wordOfBytes_hiByte_loByte, decodeWord_encode h]
  simp only [encodeBytes, List.cons_append, List.nil_append, decodeBytes, hdecode]

end Sys2Proof.Proofs
end

section
/-! # What memory holds (spec/20_memory.md rules R42, R50, R52 and spec/43_index_memory.md rule R154)

Which instructions store, what a load leaves in memory, and that a store is seen by the next fetch. -/

namespace Sys2Proof.Proofs

open Sys2Proof.Machine Sys2Proof.Laws

/-! ### Who stores (R52) -/

theorem bodyOf_mem {i : Instr} (a : State) (hdigits : ∀ x, i ≠ .ldBVx x) (hblock : ∀ x, i ≠ .ldMemVx x) :
    (bodyOf i a).mem = a.mem := by
  cases i
  case ldBVx x => exact absurd rfl (hdigits x)
  case ldMemVx x => exact absurd rfl (hblock x)
  all_goals simp [bodyOf]

/-- Settles O18: LD B and LD [I] are the exceptions. -/
theorem onlyTwoInstructionsStore : Obligations.OnlyTwoInstructionsStore := by
  intro i s t h hdigits hblock
  exact exec_ends (P := fun u => u.mem = s.mem) h (bodyOf_mem s.advance hdigits hblock) fun _ => rfl

/-! ### The address map after Reset (R42) -/

/-- An image that fits is loaded (R230, R232). -/
theorem load_of_le (s : State) {image : List Byte} (h : image.length ≤ progMax) :
    s.load image = some { State.reset with
      mem := Memory.copyIn (Memory.copyIn [] fontBase s.config.font.toList) progBase image
      config := s.config
      draws := s.draws } :=
  if_pos h

/-- Outside the font region, memory that lists nothing reads as zero, whatever the font. -/
theorem read_copyIn_font (font : Vector Byte 80) (a : Nat) :
    Memory.read (Memory.copyIn [] fontBase font.toList) a =
      if 0x050 ≤ a ∧ a ≤ 0x09F then font.toList.getD (a - 0x050) 0 else 0 := by
  rw [read_copyIn, Vector.length_toList]
  by_cases h : 0x050 ≤ a ∧ a ≤ 0x09F
  · have hfont : fontBase ≤ a ∧ a < fontBase + 80 := ⟨h.1, Nat.lt_succ_of_le h.2⟩
    rw [if_pos h, if_pos hfont]
    rfl
  · have hfont : ¬ (fontBase ≤ a ∧ a < fontBase + fontSize) := fun hf => h ⟨hf.1, Nat.le_of_lt_succ hf.2⟩
    rw [if_neg h]
    exact (if_neg hfont).trans (if_neg hfont)

/-- Settles O24: the image is copied last, over memory that holds the font and zeros. -/
theorem loadedMemoryMap : Obligations.LoadedMemoryMap := by
  intro s image hlen
  refine ⟨_, load_of_le s hlen, rfl, fun a _ => ?_⟩
  rw [read_copyIn, read_copyIn_font]
  rfl

/-! ### Stores and fetches (R50, R154) -/

/-- What a machine without a fault does at its next step (R81, R83, R84). -/
theorem step_of_fault_eq_none {s : State} (h : s.fault = none) : step s = exec (decodeWord s.fetchWord) s := by
  rw [step, h]

/-- Two addresses with the same low 12 bits name one cell (R41). -/
theorem readByte_congr (s : State) {a b : Word} (h : cellOf a = cellOf b) : s.readByte a = s.readByte b := by
  rw [State.readByte, h, State.readByte]

/-- The store loop writes the instruction it points at: with I at PC, V0 becomes the high byte and V1 the low. -/
theorem fetchWord_storeRegs (a : State) {n : Nat} (hlo : 2 ≤ n) (hhi : n ≤ 16)
    (hi : a.i.toNat % 4096 = a.pc.toNat % 4096) : (a.storeRegs n).fetchWord = a.reg 0x0#4 ++ a.reg 0x1#4 := by
  have hcell0 : cellOf a.pc = cellOf (cellAddr a.i 0) := by
    rw [cellOf_eq, cellOf_cellAddr]
    omega
  have hcell1 : cellOf (a.pc + 1#16) = cellOf (cellAddr a.i 1) := by
    rw [cellOf_eq, cellOf_cellAddr, BitVec.toNat_add, BitVec.toNat_ofNat]
    omega
  have hbyte0 : (a.storeRegs n).readByte a.pc = a.reg 0x0#4 :=
    (readByte_congr _ hcell0).trans (readByte_storeRegs a n hhi (k := 0) (by omega))
  have hbyte1 : (a.storeRegs n).readByte (a.pc + 1#16) = a.reg 0x1#4 :=
    (readByte_congr _ hcell1).trans (readByte_storeRegs a n hhi (k := 1) (by omega))
  rw [State.fetchWord, storeRegs_pc]
  exact congrArg₂ wordOfBytes hbyte0 hbyte1

/-- Settles O28: PC after the default advance is the address I holds, so the next fetch reads what the loop stored. -/
theorem storeIsSeenByTheNextFetch : Obligations.StoreIsSeenByTheNextFetch := by
  intro x s hx hfault hi
  refine ⟨_, exec_of_plain (i := .ldMemVx x) nofun nofun s, ?_⟩
  have hfault' : (bodyOf (.ldMemVx x) s.advance).tick.fault = none := by
    rw [tick_fault, bodyOf, storeRegs_fault, advance_fault, hfault]
  have hpc : s.i.toNat % 4096 = (mask12 (s.pc + 2#16)).toNat % 4096 := by
    rw [advance_pc_toNat, Nat.mod_mod, hi]
  have hfetch : (bodyOf (.ldMemVx x) s.advance).tick.fetchWord = s.reg 0x0#4 ++ s.reg 0x1#4 :=
    fetchWord_storeRegs s.advance (Nat.succ_le_succ hx) x.isLt hpc
  rw [step_of_fault_eq_none hfault', hfetch]

end Sys2Proof.Proofs
end

section
/-! # Every word spells one instruction (spec/30_encoding.md rules R61 to R66)

The operands of a word and the literals its family fixes are the fields of its format, so the word of the instruction
it decodes to is the word itself. That a no-op constructor holds an unmapped word then needs only which words decode to
a no-op. -/

namespace Sys2Proof.Proofs

/-! ### Each format of the fields of a word is the word (R61, R62) -/

section

variable {w : Word} {op : BitVec 4}

theorem formatNnn_fields (hop : fieldOp w = op) : formatNnn op (fieldNnn w) = w := by
  subst hop
  exact BitVec.extractLsb'_append_extractLsb' (w := 4) (len := 12)

/-- The low 12 bits are `x` and the low byte. -/
theorem fieldX_append_fieldKk (w : Word) : fieldX w ++ fieldKk w = fieldNnn w :=
  BitVec.extractLsb'_append_extractLsb'_eq_extractLsb' rfl

/-- The low byte is `y` and `n`. -/
theorem fieldY_append_fieldN (w : Word) : fieldY w ++ fieldN w = fieldKk w :=
  BitVec.extractLsb'_append_extractLsb'_eq_extractLsb' rfl

theorem formatXkk_fields {kk : Byte} (hop : fieldOp w = op) (hkk : fieldKk w = kk) :
    formatXkk op (fieldX w) kk = w := by
  rw [formatXkk, ← hkk, fieldX_append_fieldKk]
  exact formatNnn_fields hop

theorem formatXyn_fields {n : Nibble} (hop : fieldOp w = op) (hn : fieldN w = n) :
    formatXyn op (fieldX w) (fieldY w) n = w := by
  rw [formatXyn, ← hn, fieldY_append_fieldN]
  exact formatXkk_fields hop rfl

/-! ### The encoder undoes the decoder, family by family (R64) -/

theorem encode_decodeFamily0 (hop : fieldOp w = 0x0#4) : encode (decodeFamily0 w) = w := by
  unfold decodeFamily0
  split_ifs with hcls hret
  · exact hcls.symm
  · exact hret.symm
  · exact formatNnn_fields hop

theorem encode_decodeFamily8 (hop : fieldOp w = 0x8#4) : encode (decodeFamily8 w) = w := by
  simp only [decodeFamily8]
  split_ifs
  case neg => rfl
  all_goals exact formatXyn_fields hop ‹_›

theorem encode_decodeFamilyE (hop : fieldOp w = 0xE#4) : encode (decodeFamilyE w) = w := by
  simp only [decodeFamilyE]
  split_ifs
  case neg => rfl
  all_goals exact formatXkk_fields hop ‹_›

theorem encode_decodeFamilyF (hop : fieldOp w = 0xF#4) : encode (decodeFamilyF w) = w := by
  simp only [decodeFamilyF]
  split_ifs
  case neg => rfl
  all_goals exact formatXkk_fields hop ‹_›

end

/-- The word of the instruction a word decodes to is the word (R64). -/
theorem encode_decodeWord (w : Word) : encode (decodeWord w) = w := by
  have hfamily {n : Nat} (h : (fieldOp w).toNat = n) : fieldOp w = BitVec.ofNat 4 n := by
    rw [← h, BitVec.ofNat_toNat, BitVec.setWidth_eq]
  unfold decodeWord
  split
  case h_1 h => exact encode_decodeFamily0 (hfamily h)
  case h_9 h => exact encode_decodeFamily8 (hfamily h)
  case h_15 h => exact encode_decodeFamilyE (hfamily h)
  case h_16 =>
    have hlast : (fieldOp w).toNat = 0xF := by
      have hlt := (fieldOp w).isLt
      simp only [imp_false] at *
      omega
    exact encode_decodeFamilyF (hfamily hlast)
  case h_6 h | h_10 h =>
    split_ifs with hn
    · exact formatXyn_fields (hfamily h) hn
    · rfl
  case h_2 h | h_3 h | h_11 h | h_12 h => exact formatNnn_fields (hfamily h)
  case h_4 h | h_5 h | h_7 h | h_8 h | h_13 h => exact formatXkk_fields (hfamily h) rfl
  case h_14 h => exact formatXyn_fields (hfamily h) rfl

/-! ### The words that decode to a no-op (R66, R85) -/

/-- The two constructors that R85 makes no-ops. -/
def isNoOp (i : Instr) : Bool :=
  match i with
  | .sys _ | .unmapped _ => true
  | _ => false

theorem isNoOp_iff {i : Instr} : isNoOp i = true ↔ (∃ nnn, i = .sys nnn) ∨ ∃ w, i = .unmapped w := by
  cases i <;> simp [isNoOp]

theorem isNoOp_decodeFamily0 (w : Word) :
    isNoOp (decodeFamily0 w) = (w.toNat != 0x00E0 && w.toNat != 0x00EE) := by
  unfold decodeFamily0
  split_ifs with hcls hret
  · simp [hcls, isNoOp]
  · simp [hret, isNoOp]
  · simp_all [isNoOp, ← BitVec.toNat_inj]

theorem isNoOp_decodeFamily8 (w : Word) :
    isNoOp (decodeFamily8 w) = !family8SubCodes.contains (w.toNat % 0x10) := by
  simp only [decodeFamily8, fieldN_eq_iff]
  split_ifs <;> simp_all [isNoOp, family8SubCodes]

theorem isNoOp_decodeFamilyE (w : Word) :
    isNoOp (decodeFamilyE w) = !familyESubCodes.contains (w.toNat % 0x100) := by
  simp only [decodeFamilyE, fieldKk_eq_iff]
  split_ifs <;> simp_all [isNoOp, familyESubCodes]

theorem isNoOp_decodeFamilyF (w : Word) :
    isNoOp (decodeFamilyF w) = !familyFSubCodes.contains (w.toNat % 0x100) := by
  simp only [decodeFamilyF, fieldKk_eq_iff]
  split_ifs <;> simp_all [isNoOp, familyFSubCodes]

/-- The table of R66 lists the words that decode to a no-op. -/
theorem isNoOp_decodeWord (w : Word) : isNoOp (decodeWord w) = isUnmappedWord w := by
  unfold decodeWord isUnmappedWord
  rw [fieldOp_toNat]
  split
  case h_1 h => simp only [h, isNoOp_decodeFamily0]
  case h_9 h => simp only [h, isNoOp_decodeFamily8]
  case h_15 h => simp only [h, isNoOp_decodeFamilyE]
  case h_16 =>
    have hlast : w.toNat / 0x1000 = 0xF := by
      have hlt := w.isLt
      simp only [imp_false] at *
      omega
    simp only [hlast, isNoOp_decodeFamilyF]
  case h_6 h | h_10 h =>
    simp only [h, fieldN_eq_iff]
    split_ifs with hn <;> simp_all [isNoOp]
  all_goals simp only [*, isNoOp]

/-- The word an unmapped instruction holds is the word it was decoded from. -/
theorem eq_of_decodeWord_unmapped {w u : Word} (h : decodeWord w = .unmapped u) : u = w := by
  rw [← encode_decodeWord w, h, encode]

/-- Whatever family 0 decodes to, it is not the no-op of the other families. -/
theorem decodeFamily0_ne_unmapped (w u : Word) : decodeFamily0 w ≠ .unmapped u := by
  unfold decodeFamily0
  split_ifs <;> nofun

theorem unmappedWordOk_of_decodeWord {w u : Word} (h : decodeWord w = .unmapped u) : unmappedWordOk u = true := by
  obtain rfl := eq_of_decodeWord_unmapped h
  have hlisted : isUnmappedWord u = true := by rw [← isNoOp_decodeWord, h, isNoOp]
  have hfamily : u.toNat / 0x1000 ≠ 0x0 := by
    intro h0
    rw [decodeWord, fieldOp_toNat, h0] at h
    exact decodeFamily0_ne_unmapped u u h
  simp [unmappedWordOk, hlisted, hfamily]

/-- The word of SYS is listed in R66 exactly when its address spells neither CLS nor RET. -/
theorem isUnmappedWord_sys (nnn : Addr) : isUnmappedWord (formatNnn 0x0#4 nnn) = sysAddressOk nnn := by
  have hword : (formatNnn 0x0#4 nnn).toNat = nnn.toNat :=
    (BitVec.toNat_append 0x0#4 nnn).trans (by simp)
  have hfamily : nnn.toNat / 0x1000 = 0x0 := Nat.div_eq_of_lt nnn.isLt
  simp only [isUnmappedWord, hword, hfamily, sysAddressOk]

theorem sysAddressOk_of_decodeWord {w : Word} {nnn : Addr} (h : decodeWord w = .sys nnn) : sysAddressOk nnn = true := by
  have hword : formatNnn 0x0#4 nnn = w := by rw [← encode_decodeWord w, h, encode]
  rw [← isUnmappedWord_sys, hword, ← isNoOp_decodeWord, h, isNoOp]

theorem wellFormed_decodeWord (w : Word) : WellFormed (decodeWord w) := by
  generalize h : decodeWord w = i
  cases i
  case sys nnn => exact sysAddressOk_of_decodeWord h
  case unmapped u => exact unmappedWordOk_of_decodeWord h
  all_goals rfl

/-! ### The obligations -/

/-- Settles O2: the fields of the encoded word are the operands. -/
theorem decodeOfEncodeIsTheInstruction : Obligations.DecodeOfEncodeIsTheInstruction :=
  fun _ h => decodeWord_encode h

/-- Settles O3: the fields of a word, put back in its format, make up the word. -/
theorem everyWordSpellsOneInstruction : Obligations.EveryWordSpellsOneInstruction :=
  fun w => ⟨wellFormed_decodeWord w, encode_decodeWord w⟩

/-- Settles O4: family by family, the sub-codes the decoder compares are those the table leaves out. -/
theorem noOpWordsAreTheUnmappedWords : Obligations.NoOpWordsAreTheUnmappedWords := by
  intro w
  rw [← isNoOp_decodeWord, isNoOp_iff]
  refine or_congr_right ⟨fun h => ⟨w, h⟩, ?_⟩
  rintro ⟨u, h⟩
  rwa [eq_of_decodeWord_unmapped h] at h

/-- Settles O1, by running the decoder on each word. -/
theorem decodesWrittenWords : Obligations.DecodesWrittenWords := by
  unfold Obligations.DecodesWrittenWords
  decide

end Sys2Proof.Proofs
end

section
/-! # The opcode map (spec/30_encoding.md rule R65)

A mask of the map keeps the family of a word and the sub-code its family dispatches on, so the decoder finds the same
mnemonic for two words that agree under it. That each row's own pattern decodes to the row is then a check of 34
words. -/

namespace Sys2Proof.Proofs

/-! ### What a mask keeps -/

/-- Two words that agree under a mask agree in every field that the mask keeps whole. -/
theorem extractLsb'_eq_of_and {w w' m : Word} {start len : Nat} (hm : m.extractLsb' start len = BitVec.allOnes len)
    (h : w &&& m = w' &&& m) : w.extractLsb' start len = w'.extractLsb' start len := by
  have hfield := congrArg (BitVec.extractLsb' start len) h
  rwa [BitVec.extractLsb'_and, BitVec.extractLsb'_and, hm, BitVec.and_allOnes, BitVec.and_allOnes] at hfield

/-- The mask of the rows of a family: all of the word, the family and the low nibble, the family and the low byte, or
the family alone (R65). -/
def familyMask (op : Nat) : Word :=
  match op with
  | 0x0 => 0xFFFF#16
  | 0x5 | 0x8 | 0x9 => 0xF00F#16
  | 0xE | 0xF => 0xF0FF#16
  | _ => 0xF000#16

theorem fieldOp_familyMask (op : Nat) : fieldOp (familyMask op) = BitVec.allOnes 4 := by
  unfold familyMask
  split <;> rfl

/-! ### The mnemonic of a word under its mask -/

section

variable {w w' : Word}

theorem mnemonicOf_decodeFamily8_congr (h : fieldN w = fieldN w') :
    mnemonicOf (decodeFamily8 w) = mnemonicOf (decodeFamily8 w') := by
  simp only [decodeFamily8, h]
  split_ifs <;> rfl

theorem mnemonicOf_decodeFamilyE_congr (h : fieldKk w = fieldKk w') :
    mnemonicOf (decodeFamilyE w) = mnemonicOf (decodeFamilyE w') := by
  simp only [decodeFamilyE, h]
  split_ifs <;> rfl

theorem mnemonicOf_decodeFamilyF_congr (h : fieldKk w = fieldKk w') :
    mnemonicOf (decodeFamilyF w) = mnemonicOf (decodeFamilyF w') := by
  simp only [decodeFamilyF, h]
  split_ifs <;> rfl

/-- A word's mnemonic depends only on the bits that its family's mask keeps. -/
theorem mnemonicOf_decodeWord_congr
    (h : w &&& familyMask (fieldOp w).toNat = w' &&& familyMask (fieldOp w).toNat) :
    mnemonicOf (decodeWord w) = mnemonicOf (decodeWord w') := by
  have hop : fieldOp w = fieldOp w' := extractLsb'_eq_of_and (fieldOp_familyMask _) h
  unfold decodeWord
  rw [← hop]
  split
  case h_1 h0 =>
    rw [h0] at h
    have hmask : familyMask 0x0 = BitVec.allOnes 16 := rfl
    have hword : w = w' := by rwa [hmask, BitVec.and_allOnes, BitVec.and_allOnes] at h
    rw [hword]
  case h_6 hfamily | h_10 hfamily =>
    rw [hfamily] at h
    have hn : fieldN w = fieldN w' := extractLsb'_eq_of_and rfl h
    rw [hn]
    split_ifs <;> rfl
  case h_9 h8 =>
    rw [h8] at h
    exact mnemonicOf_decodeFamily8_congr (extractLsb'_eq_of_and rfl h)
  case h_15 hE =>
    rw [hE] at h
    exact mnemonicOf_decodeFamilyE_congr (extractLsb'_eq_of_and rfl h)
  case h_16 =>
    have hF : (fieldOp w).toNat = 0xF := by
      have hlt := (fieldOp w).isLt
      simp only [imp_false] at *
      omega
    rw [hF] at h
    exact mnemonicOf_decodeFamilyF_congr (extractLsb'_eq_of_and rfl h)
  all_goals rfl

end

/-! ### The rows of the map -/

/-- The 34 rows, each checked at its own pattern: it uses its family's mask and the pattern decodes to its mnemonic. -/
theorem opcodeTable_pat : ∀ r ∈ opcodeTable,
    r.mask = familyMask (fieldOp r.pat).toNat ∧ r.pat &&& r.mask = r.pat ∧ r.mnemonic = mnemonicOf (decodeWord r.pat) := by
  decide

/-- No mnemonic stands in two rows. -/
theorem opcodeTable_mnemonic_nodup : (opcodeTable.map OpcodeRow.mnemonic).Nodup := by
  decide

/-- A word selects only the row of the instruction it decodes to. -/
theorem mnemonic_of_selects {r : OpcodeRow} {w : Word} (hr : r ∈ opcodeTable) (h : r.selects w = true) :
    r.mnemonic = mnemonicOf (decodeWord w) := by
  obtain ⟨hmask, hpat, hmnemonic⟩ := opcodeTable_pat r hr
  have hagree : r.pat &&& r.mask = w &&& r.mask := hpat.trans (beq_iff_eq.1 h).symm
  rw [hmask] at hagree
  exact hmnemonic.trans (mnemonicOf_decodeWord_congr hagree)

/-! ### The row of an instruction -/

theorem formatNnn_and (op op' : BitVec 4) (nnn nnn' : Addr) :
    formatNnn op nnn &&& formatNnn op' nnn' = formatNnn (op &&& op') (nnn &&& nnn') :=
  BitVec.and_append

theorem formatXkk_and (op op' : BitVec 4) (x x' : Reg) (kk kk' : Byte) :
    formatXkk op x kk &&& formatXkk op' x' kk' = formatXkk (op &&& op') (x &&& x') (kk &&& kk') :=
  (formatNnn_and op op' (x ++ kk) (x' ++ kk')).trans (congrArg (formatNnn _) BitVec.and_append)

theorem formatXyn_and (op op' : BitVec 4) (x x' y y' : Reg) (n n' : Nibble) :
    formatXyn op x y n &&& formatXyn op' x' y' n' = formatXyn (op &&& op') (x &&& x') (y &&& y') (n &&& n') :=
  (formatXkk_and op op' x x' (y ++ n) (y' ++ n')).trans (congrArg (formatXkk _ _) BitVec.and_append)

section

variable (op : BitVec 4) (x y : Reg) (n : Nibble) (kk : Byte) (nnn : Addr)

theorem formatNnn_mask : formatNnn op nnn &&& 0xF000#16 = formatNnn op 0x000#12 := by
  have h := formatNnn_and op (BitVec.allOnes 4) nnn 0x000#12
  rwa [BitVec.and_allOnes, BitVec.and_zero] at h

theorem formatXkk_mask : formatXkk op x kk &&& 0xF0FF#16 = formatXkk op 0x0#4 kk := by
  have h := formatXkk_and op (BitVec.allOnes 4) x 0x0#4 kk (BitVec.allOnes 8)
  rwa [BitVec.and_allOnes, BitVec.and_zero, BitVec.and_allOnes] at h

theorem formatXyn_mask : formatXyn op x y n &&& 0xF00F#16 = formatXyn op 0x0#4 0x0#4 n := by
  have h := formatXyn_and op (BitVec.allOnes 4) x 0x0#4 y 0x0#4 n (BitVec.allOnes 4)
  rwa [BitVec.and_allOnes, BitVec.and_zero, BitVec.and_zero, BitVec.and_allOnes] at h

end

/-- A word whose bits under a mask are a pattern selects the row of that mask and pattern. -/
theorem exists_selects_of_and {w m p : Word} (h : w &&& m = p) (hrow : ∃ r ∈ opcodeTable, r.mask = m ∧ r.pat = p) :
    ∃ r ∈ opcodeTable, r.selects w = true := by
  obtain ⟨r, hr, rfl, rfl⟩ := hrow
  exact ⟨r, hr, beq_iff_eq.2 h⟩

/-- The word of an instruction selects a row, unless the instruction is a no-op. -/
theorem mnemonicOf_eq_sys_or_exists_selects (i : Instr) :
    mnemonicOf i = "SYS_nnn" ∨ ∃ r ∈ opcodeTable, r.selects (encode i) = true := by
  cases i
  case sys | unmapped => exact .inl rfl
  case cls | ret => exact .inr (by decide)
  case jp | call | ldI | jpV0 | seVxKk | sneVxKk | ldVxKk | addVxKk | rnd | drw =>
    exact .inr (exists_selects_of_and (formatNnn_mask _ _) (by decide))
  case seVxVy | sneVxVy | ldVxVy | orVxVy | andVxVy | xorVxVy | addVxVy | subVxVy | shr | subnVxVy | shl =>
    exact .inr (exists_selects_of_and (formatXyn_mask _ _ _ _) (by decide))
  case skp | sknp | ldVxDt | ldVxK | ldDtVx | ldStVx | addIVx | ldFVx | ldBVx | ldMemVx | ldVxMem =>
    exact .inr (exists_selects_of_and (formatXkk_mask _ _ _) (by decide))

/-- Settles O5: a selected row has the decoded mnemonic, which stands in one row; a word that selects none encodes a
no-op. -/
theorem decoderFollowsTheOpcodeMap : Obligations.DecoderFollowsTheOpcodeMap := by
  intro w
  refine ⟨fun r hr h => mnemonic_of_selects hr h, fun r hr r' hr' h h' => ?_, fun hnone => ?_⟩
  · have hmnemonic : r.mnemonic = r'.mnemonic := (mnemonic_of_selects hr h).trans (mnemonic_of_selects hr' h').symm
    exact List.inj_on_of_nodup_map opcodeTable_mnemonic_nodup hr hr' hmnemonic
  · obtain hsys | ⟨r, hr, hselects⟩ := mnemonicOf_eq_sys_or_exists_selects (decodeWord w)
    · exact hsys
    · rw [encode_decodeWord, hnone r hr] at hselects
      cases hselects

end Sys2Proof.Proofs
end

section
/-! # The step cycle (spec/40_step_cycle.md, spec/41_control_flow.md rules R90 and R103 to R108)

A step fetches, decodes and runs one instruction, and every instruction either completes or faults: so a step always
answers a next state. For an instruction that completes, what its cycle does to PC and to the timers is what its execute
phase does to them, between the default advance and the tick. -/

namespace Sys2Proof.Proofs

open Sys2Proof.Machine Sys2Proof.Laws

/-! ### Fetch and standstill (R81, R88) -/

/-- The two cells at PC, decoded, are the fetched word, decoded (R44, R81). -/
theorem decodeBytes_fetch (s : State) :
    decodeBytes [Memory.read s.mem (s.pc.toNat % 4096), Memory.read s.mem ((s.pc.toNat + 1) % 4096)] =
      .ok (decodeWord s.fetchWord, []) := by
  have hcell : cellOf (s.pc + 1) = (s.pc.toNat + 1) % 4096 := cellOf_cellAddr s.pc 1
  rw [State.fetchWord, State.readByte, State.readByte, hcell, cellOf_eq, decodeBytes]

theorem step_of_fault_ne_none {s : State} (h : s.fault ≠ none) : step s = .next s := by
  obtain ⟨r, hr⟩ := Option.ne_none_iff_exists'.1 h
  rw [step, hr]

/-! ### Every instruction answers a next state (R89, R214) -/

theorem exec_eq_next (i : Instr) (s : State) : ∃ t, exec i s = .next t := by
  obtain h | ⟨f, h⟩ := completes_or_faults i s
  · exact ⟨_, exec_of_completes h⟩
  · exact ⟨_, exec_of_faults h⟩

/-! ### The timers (R86) -/

section

variable {i : Instr} (a : State)

theorem bodyOf_dt (h : ∀ x, i ≠ .ldDtVx x) : (bodyOf i a).dt = a.dt := by
  cases i
  case ldDtVx x => exact absurd rfl (h x)
  all_goals simp [bodyOf]

theorem bodyOf_st (h : ∀ x, i ≠ .ldStVx x) : (bodyOf i a).st = a.st := by
  cases i
  case ldStVx x => exact absurd rfl (h x)
  all_goals simp [bodyOf]

end

/-! ### Where PC goes (R82, R90, R108) -/

/-- A skip after the default advance goes where R90 says, when the Boolean it tests decides the condition. -/
theorem skipIf_advance_pc_toNat (s : State) {c : Bool} {taken : Prop} [Decidable taken] (h : c = true ↔ taken) :
    (s.advance.skipIf c).pc.toNat = skipTarget s taken := by
  rw [skipTarget]
  cases c with
  | false =>
    rw [if_neg fun ht => Bool.noConfusion (h.2 ht)]
    exact advance_pc_toNat s
  | true =>
    rw [if_pos (h.1 rfl)]
    exact skip_pc_toNat s

/-- The key wait undoes the default advance exactly when no key is pressed (R182). -/
theorem keyWait_advance_pc_toNat (s : State) (x : Reg) : (s.advance.keyWait x).pc.toNat = targetPc (.ldVxK x) s := by
  rw [targetPc]
  by_cases hnone : ∀ k, s.key k = false
  · rw [keyWait_of_none s.advance x hnone, if_neg (by simpa using hnone)]
    exact rollback_pc_toNat s
  · obtain ⟨k, hk⟩ := Option.ne_none_iff_exists'.1 (mt (firstPressed_eq_none s.advance).1 hnone)
    obtain ⟨hpressed, hleast⟩ := (firstPressed_eq_some s.advance).1 hk
    rw [keyWait_of_pressed s.advance x hpressed hleast, if_pos ⟨k, hpressed⟩]
    exact advance_pc_toNat s

/-- The execute phase leaves PC at the target; the instructions that are no control transfer leave it where the default
advance put it. -/
theorem bodyOf_advance_pc_toNat {i : Instr} {s : State} (h : Completes i s) :
    (bodyOf i s.advance).pc.toNat = targetPc i s := by
  cases i
  case jp nnn | call nnn => exact addrOperand_toNat nnn
  case jpV0 nnn => exact relativeTarget_toNat nnn (s.reg 0x0#4)
  case ret =>
    rw [bodyOf, popToPc_of_pos s.advance (h.2 rfl)]
    exact mask12_toNat _
  case seVxKk | seVxVy => exact skipIf_advance_pc_toNat s beq_iff_eq
  case sneVxKk | sneVxVy => exact skipIf_advance_pc_toNat s bne_iff_ne
  case skp => exact skipIf_advance_pc_toNat s Iff.rfl
  case sknp => exact skipIf_advance_pc_toNat s (Bool.not_eq_true' _).to_iff
  case ldVxK x => exact keyWait_advance_pc_toNat s x
  all_goals simp [bodyOf, targetPc, advance_pc_toNat]

/-! ### Instructions that touch only PC and the timers -/

/-- A tick of a state whose timers are those of `s` (R86). -/
theorem ticked_tick {s u : State} (hdt : u.dt = s.dt) (hst : u.st = s.st) : Ticked s u.tick := by
  rw [Ticked, tick_dt, tick_st, countDown_toNat, countDown_toNat, hdt, hst]
  exact ⟨rfl, rfl⟩

theorem quiet_withPc_tick (s : State) (w : Word) : Quiet s (State.tick { s with pc := w }) :=
  ⟨⟨fun _ _ => rfl, fun _ _ => rfl, ⟨rfl, fun _ _ => rfl⟩, ⟨rfl, fun _ _ _ _ => rfl⟩, ⟨fun _ => rfl, rfl, rfl⟩, rfl⟩,
    rfl, ticked_tick rfl rfl⟩

/-- An instruction whose execute phase is a skip goes to the skip's target and changes nothing else but the timers. -/
theorem retire_skipIf (s : State) (read : State → Bool) {taken : Prop} [Decidable taken]
    (h : read s.advance = true ↔ taken) :
    ∃ t, retire (fun a => a.skipIf (read a)) s = .next t ∧ t.pc.toNat = skipTarget s taken ∧ Quiet s t := by
  refine ⟨_, retire_next _ s, skipIf_advance_pc_toNat s h, ?_⟩
  rw [skipIf_eq]
  exact quiet_withPc_tick s _

/-- An instruction whose execute phase does nothing advances PC and changes nothing else but the timers. -/
theorem retire_id (s : State) :
    ∃ t, retire (fun a => a) s = .next t ∧ t.pc.toNat = (s.pc.toNat + 2) % 4096 ∧ Quiet s t :=
  ⟨_, retire_next _ s, advance_pc_toNat s, quiet_withPc_tick s _⟩

/-! ### The obligations -/

/-- Settles O7: the decoded cells are the fetched word, which is decoded to a well-formed instruction. -/
theorem stepRunsTheDecodedInstruction : Obligations.StepRunsTheDecodedInstruction := by
  refine ⟨fun s i hfault hdecode => ?_, fun s => ⟨_, wellFormed_decodeWord _, decodeBytes_fetch s⟩⟩
  rw [decodeBytes_fetch] at hdecode
  obtain rfl : decodeWord s.fetchWord = i := (Prod.mk.inj (Except.ok.inj hdecode)).1
  exact step_of_fault_eq_none hfault

/-- Settles O8: a step looks at the latch before it fetches. -/
theorem faultedMachineStandsStill : Obligations.FaultedMachineStandsStill :=
  fun _ h => step_of_fault_ne_none h

/-- Settles O9: a faulted machine stands still, and every instruction answers a next state. -/
theorem stepAlwaysAnswersANextState : Obligations.StepAlwaysAnswersANextState := by
  intro s
  by_cases h : s.fault = none
  · rw [step_of_fault_eq_none h]
    exact exec_eq_next _ s
  · exact ⟨s, step_of_fault_ne_none h⟩

/-- Settles O10: the tick follows the execute phase, in which LD DT and LD ST are the only writes of a timer. -/
theorem completedInstructionTicksBothTimers : Obligations.CompletedInstructionTicksBothTimers := by
  intro i s h
  refine ⟨_, exec_of_completes h, ?_⟩
  rw [tick_dt, tick_st, countDown_toNat, countDown_toNat]
  refine ⟨?_, fun hi => ?_, ?_, fun hi => ?_⟩
  · rintro x rfl
    rfl
  · rw [bodyOf_dt s.advance hi, advance_dt]
  · rintro x rfl
    rfl
  · rw [bodyOf_st s.advance hi, advance_st]

/-- Settles O11: the tick leaves PC where the execute phase put it. -/
theorem controlGoesToTheTarget : Obligations.ControlGoesToTheTarget :=
  fun _ _ h => ⟨_, exec_of_completes h, bodyOf_advance_pc_toNat h⟩

/-- Settles O12: a fault is one write, to the latch. -/
theorem faultChangesOnlyTheLatch : Obligations.FaultChangesOnlyTheLatch :=
  fun _ _ _ h => ⟨_, exec_of_faults h, rfl, rfl⟩

/-- Settles O33: each compare is a skip on a Boolean that decides its condition. -/
theorem comparesSkip : Obligations.ComparesSkip :=
  ⟨fun x kk s => retire_skipIf s (fun a => a.reg x == kk) beq_iff_eq,
    fun x kk s => retire_skipIf s (fun a => a.reg x != kk) bne_iff_ne,
    fun x y s => retire_skipIf s (fun a => a.reg x == a.reg y) beq_iff_eq,
    fun x y s => retire_skipIf s (fun a => a.reg x != a.reg y) bne_iff_ne⟩

/-- Settles O54: both no-op constructors have the empty execute phase. -/
theorem unmappedWordsDoNothing : Obligations.UnmappedWordsDoNothing :=
  ⟨fun _ s => retire_id s, fun _ s => retire_id s⟩

end Sys2Proof.Proofs
end

section
/-! # Control transfer (spec/41_control_flow.md rules R100 to R102 and R107; spec/70_reset_and_hazards.md rule R240)

A jump writes PC alone. CALL and RET write PC and the call stack, so one frame lemma serves both, and CALL then RET
comes back because RET reads the entry CALL wrote. On a jump to itself a step is a tick, and a tick leaves the machine
on that jump. -/

namespace Sys2Proof.Proofs

open Sys2Proof.Machine Sys2Proof.Laws

/-! ### CALL and RET (R100, R102) -/

/-- CALL with room on the stack, as named writes of the state before it, and a tick (R102). -/
theorem exec_call_of_lt (nnn : Addr) {s : State} (h : s.sp.val < 16) :
    exec (.call nnn) s = .next (((s.setStack s.sp.val (mask12 (s.pc + 2))).setSp ⟨s.sp.val + 1, by omega⟩).setPc
      (addrOperand nnn)).tick := by
  rw [exec_call nnn h.ne, bodyOf, push_of_lt s.advance _ h]
  rfl

/-- RET with a saved address, as named writes of the state before it, and a tick (R100). -/
theorem exec_ret_of_pos {s : State} (h : 0 < s.sp.val) :
    exec .ret s = .next ((s.setSp ⟨s.sp.val - 1, by omega⟩).setPc (s.stackAt (s.sp.val - 1))).tick := by
  rw [exec_ret h.ne', bodyOf, popToPc_of_pos s.advance h]
  rfl

/-- An instruction that writes only PC and the call stack keeps all else, and the timers tick. -/
theorem kept_withCalls_tick {s t : State} {stack : Vector Word 16} {sp : Fin 17} {pc : Word}
    (h : t = State.tick { s with stack := stack, sp := sp, pc := pc }) :
    RegsKept noReg s t ∧ MemKept noCell s t ∧ ScreenKept s t ∧ LatchesKept s t ∧ t.draws = s.draws ∧ t.i = s.i ∧
      Ticked s t := by
  subst h
  exact ⟨fun _ _ => rfl, fun _ _ => rfl, ⟨rfl, fun _ _ _ _ => rfl⟩, ⟨fun _ => rfl, rfl, rfl⟩, rfl, rfl,
    ticked_tick rfl rfl⟩

/-- Settles O29: RET moves SP and reads the stack, and writes no entry of it. -/
theorem returnPopsTheSavedAddress : Obligations.ReturnPopsTheSavedAddress :=
  fun _ h => ⟨_, exec_ret_of_pos h, rfl, mask12_toNat _, fun _ _ => rfl, kept_withCalls_tick rfl⟩

/-- Settles O31: of the stack CALL writes the entry SP names, with the advanced PC. -/
theorem callSavesTheReturnAddress : Obligations.CallSavesTheReturnAddress := by
  intro nnn s h
  refine ⟨_, exec_call_of_lt nnn h, ?_, rfl, addrOperand_toNat nnn, fun k _ hk => ?_, kept_withCalls_tick rfl⟩
  · rw [stackAt_tick, stackAt_setPc, stackAt_setSp, stackAt_setStack, if_pos ⟨rfl, h⟩]
    exact advance_pc_toNat s
  · rw [stackAt_tick, stackAt_setPc, stackAt_setSp, stackAt_setStack, if_neg fun hk' => hk hk'.1]

/-- Settles O32: the entry RET pops is the one CALL saved. -/
theorem returnUndoesCall : Obligations.ReturnUndoesCall := by
  intro nnn s h
  obtain ⟨t, hcall, hsaved, htsp, -⟩ := callSavesTheReturnAddress nnn s h
  obtain ⟨u, hret, husp, hupc, -⟩ := returnPopsTheSavedAddress t (by omega)
  rw [htsp, Nat.add_sub_cancel] at husp hupc
  refine ⟨t, u, hcall, hret, ?_, Fin.ext husp⟩
  rw [hupc, hsaved, Nat.mod_mod]

/-! ### Jumps (R101, R107) -/

/-- Settles O30: the execute phase of JP writes PC, masking the literal. -/
theorem jumpGoesToTheLiteral : Obligations.JumpGoesToTheLiteral :=
  fun nnn s => ⟨_, exec_of_completes ⟨nofun, nofun⟩, addrOperand_toNat nnn, quiet_withPc_tick s _⟩

/-- Settles O34: the execute phase of JP V0 writes PC, masking the sum. -/
theorem jumpPlusV0 : Obligations.JumpPlusV0 :=
  fun nnn s => ⟨_, exec_of_completes ⟨nofun, nofun⟩, relativeTarget_toNat nnn (s.reg 0x0#4), quiet_withPc_tick s _⟩

/-! ### A jump to itself (R240) -/

theorem run_succ_of_next {M : Host.Core} {s s' : M.State} (h : M.step s = .next s') (k : Nat) :
    M.run (k + 1) s = M.run k s' := by
  rw [Host.Core.run, h]

/-- On a jump to itself a step is a tick: the jump puts PC back where it was. -/
theorem step_of_ended {s : State} (h : s.Ended) : step s = .next s.tick := by
  obtain ⟨hfault, nnn, hpc, hword⟩ := h
  have hback : mask12 (addrOperand nnn) = s.pc := by
    rw [hpc]
    exact BitVec.eq_of_toNat_eq ((addrOperand_toNat nnn).trans (BitVec.toNat_setWidth_of_le (by decide)).symm)
  have hbody : bodyOf (.jp nnn) s.advance = s := congrArg (fun w => { s with pc := w }) hback
  have hexec : exec (.jp nnn) s = .next (bodyOf (.jp nnn) s.advance).tick := exec_of_completes ⟨nofun, nofun⟩
  rw [step_of_fault_eq_none hfault, hword, decodeWord_encode rfl, hexec, hbody]

/-- A tick touches neither the latch nor what is fetched, so the machine stays on its jump. -/
theorem ended_tick {s : State} (h : s.Ended) : s.tick.Ended := h

/-- Settles O35, by induction on the number of steps: the first step is a tick, and the rest run from a state that has
ended too. -/
theorem jumpToSelfChangesOnlyTheTimers : Obligations.JumpToSelfChangesOnlyTheTimers := by
  intro s h n
  induction n generalizing s with
  | zero => exact ⟨s, rfl, rfl, rfl, rfl⟩
  | succ n ih =>
    obtain ⟨t, hrun, hdt, hst, hrest⟩ := ih s.tick (ended_tick h)
    rw [tick_dt, countDown_toNat] at hdt
    rw [tick_st, countDown_toNat] at hst
    exact ⟨t, (run_succ_of_next (step_of_ended h) n).trans hrun, by omega, by omega,
      congrArg (fun u => { u with dt := s.dt, st := s.st }) hrest⟩

end Sys2Proof.Proofs
end

section
/-! # Loads, arithmetic and logic (spec/42_load_alu.md rules R121 to R133)

The execute phase of each of these instructions is one write of Vx, or the two writes of a result and a flag. One lemma
for either shape says what the whole cycle does; what remains for an instruction is its arithmetic. -/

namespace Sys2Proof.Proofs

open Sys2Proof.Machine Sys2Proof.Laws

/-! ### Instructions that write only general registers, PC and the timers -/

/-- Whatever general registers are written, wherever PC goes and whether or not a random byte is taken: all else is
kept, and the timers tick. -/
theorem kept_withRegs_tick {s t : State} {v : Vector Byte 16} {pc : Word} {draws : Nat}
    (h : t = State.tick { s with v := v, pc := pc, draws := draws }) :
    MemKept noCell s t ∧ CallsKept s t ∧ ScreenKept s t ∧ LatchesKept s t ∧ t.i = s.i ∧ Ticked s t := by
  subst h
  exact ⟨fun _ _ => rfl, ⟨rfl, fun _ _ => rfl⟩, ⟨rfl, fun _ _ _ _ => rfl⟩, ⟨fun _ => rfl, rfl, rfl⟩, rfl,
    ticked_tick rfl rfl⟩

theorem onlyRegs_withRegs_tick {written : Reg → Prop} {s t : State} {v : Vector Byte 16} {pc : Word}
    (h : t = State.tick { s with v := v, pc := pc }) (hregs : RegsKept written s t) : OnlyRegs written s t := by
  obtain ⟨hmem, hcalls, hscreen, hlatches, hi, hticked⟩ := kept_withRegs_tick h
  exact ⟨⟨hregs, hmem, hcalls, hscreen, hlatches, by rw [h, tick_draws]⟩, hi, hticked⟩

/-! ### One write of Vx (R121 to R126) -/

/-- An instruction whose execute phase is one write of Vx leaves the value there and changes no other register. -/
theorem retire_setReg (s : State) (x : Reg) (value : State → Byte) :
    ∃ t, retire (fun a => a.setReg x (value a)) s = .next t ∧ t.reg x = value s.advance ∧ OnlyRegs (· = x) s t :=
  ⟨_, retire_next _ s, reg_setReg_self s.advance x _,
    onlyRegs_withRegs_tick rfl fun _ hr => reg_setReg_ne s.advance _ hr⟩

/-- An instruction that combines Vx and Vy bit by bit does so on the registers before the step. -/
theorem retire_bitwise (s : State) (x y : Reg) {op : Byte → Byte → Byte} {bitOp : Bool → Bool → Bool}
    (hbit : ∀ (a b : Byte) (j : Nat), (op a b).getLsbD j = bitOp (a.getLsbD j) (b.getLsbD j)) :
    ∃ t, retire (fun a => a.setReg x (op (a.reg x) (a.reg y))) s = .next t ∧ OnlyRegs (· = x) s t ∧
      ∀ j < 8, (t.reg x).getLsbD j = bitOp ((s.reg x).getLsbD j) ((s.reg y).getLsbD j) := by
  obtain ⟨t, hexec, hx, honly⟩ := retire_setReg s x fun a => op (a.reg x) (a.reg y)
  exact ⟨t, hexec, honly, fun j _ => (congrArg (·.getLsbD j) hx).trans (hbit _ _ j)⟩

/-- Settles O36: both loads are one write of Vx. -/
theorem loadsIntoARegister : Obligations.LoadsIntoARegister :=
  ⟨fun x kk s => retire_setReg s x fun _ => kk, fun x y s => retire_setReg s x fun a => a.reg y⟩

/-- Settles O37: the sum of two bytes is a byte, so it wraps. -/
theorem addLiteralWraps : Obligations.AddLiteralWraps := by
  intro x kk s
  obtain ⟨t, hexec, hx, honly⟩ := retire_setReg s x fun a => a.reg x + kk
  exact ⟨t, hexec, (congrArg BitVec.toNat hx).trans (BitVec.toNat_add _ _), honly⟩

/-- Settles O38: each of the three is one write of Vx, with the word operation that acts bit by bit. -/
theorem bitwiseLogic : Obligations.BitwiseLogic :=
  fun x y s => ⟨retire_bitwise s x y fun _ _ _ => BitVec.getLsbD_or,
    retire_bitwise s x y fun _ _ _ => BitVec.getLsbD_and, retire_bitwise s x y fun _ _ _ => BitVec.getLsbD_xor⟩

/-! ### Result and flag (R127 to R131, R133) -/

theorem flagByte_toNat (b : Bool) : (flagByte b).toNat = b.toNat := by
  cases b <;> rfl

theorem flagByte_decide_toNat (p : Prop) [Decidable p] : (flagByte (decide p)).toNat = if p then 1 else 0 := by
  rw [flagByte_toNat, Bool.toNat, Bool.cond_decide]

/-- The two writes leave the result in Vx and the flag in VF, and in VF written twice the later of the two (R133). -/
theorem resultAndFlag_writeResultAndFlag {s a : State} (hconfig : a.config = s.config) (x : Reg) (result : Byte)
    (flag : Bool) : ResultAndFlag x result.toNat (flagByte flag).toNat s (a.writeResultAndFlag x result flag) := by
  have hreg (hx : x ≠ vf) : (a.writeResultAndFlag x result flag).reg x = result := by
    rw [reg_writeResultAndFlag, if_neg hx, if_pos rfl]
  have hvf : (a.writeResultAndFlag x result flag).reg vf =
      if x = vf ∧ s.config.vfOrder = .resultLast then result else flagByte flag := by
    rw [reg_writeResultAndFlag, if_pos rfl, hconfig]
  refine ⟨fun hx => ⟨congrArg _ (hreg hx), congrArg _ (hvf.trans (if_neg fun h => hx h.1))⟩,
    fun _ hlast => congrArg _ (hvf.trans (if_neg fun h => ?_)),
    fun hx hlast => congrArg _ (hvf.trans (if_pos ⟨hx, hlast⟩))⟩
  exact nomatch hlast.symm.trans h.2

/-- An instruction whose execute phase writes a result and a flag leaves them as VF_ORDER says and changes no other
register. -/
theorem retire_writeResultAndFlag (s : State) (x : Reg) (result : State → Byte) (flag : State → Bool) {n m : Nat}
    (hresult : (result s.advance).toNat = n) (hflag : (flagByte (flag s.advance)).toNat = m) :
    ∃ t, retire (fun a => a.writeResultAndFlag x (result a) (flag a)) s = .next t ∧ ResultAndFlag x n m s t ∧
      OnlyRegs (fun r => r = x ∨ r = 0xF#4) s t := by
  subst hresult hflag
  refine ⟨_, retire_next _ s, resultAndFlag_writeResultAndFlag (advance_config s) x _ _, ?_⟩
  obtain ⟨v, hv⟩ := writeResultAndFlag_eq s.advance x (result s.advance) (flag s.advance)
  exact onlyRegs_withRegs_tick (congrArg State.tick hv) fun _ hr => reg_writeResultAndFlag_ne s.advance _ _ hr

/-- Settles O39: the byte sum wraps, and the carry is decided on the exact sum. -/
theorem addWithCarry : Obligations.AddWithCarry :=
  fun x y s => retire_writeResultAndFlag s x (fun a => a.reg x + a.reg y) (fun a => carryFlag (a.reg x) (a.reg y))
    (BitVec.toNat_add _ _) (flagByte_decide_toNat _)

theorem sub_toNat (a b : Byte) : (a - b).toNat = (a.toNat + 256 - b.toNat) % 256 := by
  have hb := b.isLt
  rw [BitVec.toNat_sub]
  omega

/-- Settles O40: SUBN is SUB with the operands exchanged. -/
theorem subtractBothWays : Obligations.SubtractBothWays :=
  fun x y s =>
    ⟨retire_writeResultAndFlag s x (fun a => a.reg x - a.reg y) (fun a => notBorrowFlag (a.reg x) (a.reg y))
      (sub_toNat _ _) (flagByte_decide_toNat _),
    retire_writeResultAndFlag s x (fun a => a.reg y - a.reg x) (fun a => notBorrowFlag (a.reg y) (a.reg x))
      (sub_toNat _ _) (flagByte_decide_toNat _)⟩

/-! ### Shifts (R129, R131) -/

theorem shiftOperand_eq (s : State) (x y : Reg) :
    shiftOperand s x y = if s.config.shiftSource = .vx then s.reg x else s.reg y := by
  unfold shiftOperand
  cases s.config.shiftSource <;> rfl

theorem shiftRight_one_toNat (a : Byte) : (a >>> 1).toNat = a.toNat / 2 := by
  rw [BitVec.toNat_ushiftRight, Nat.shiftRight_one]

theorem shiftLeft_one_toNat (a : Byte) : (a <<< 1).toNat = a.toNat * 2 % 256 := by
  rw [BitVec.toNat_shiftLeft, Nat.shiftLeft_eq]

theorem shiftRightFlag_toNat (a : Byte) : (flagByte (shiftRightFlag a)).toNat = a.toNat % 2 := by
  rw [flagByte_toNat, shiftRightFlag, BitVec.getLsbD, Nat.toNat_testBit]
  omega

/-- Bit 7 is all that a byte holds above 127. -/
theorem shiftLeftFlag_toNat (a : Byte) : (flagByte (shiftLeftFlag a)).toNat = a.toNat / 128 := by
  have ha := a.isLt
  rw [flagByte_toNat, shiftLeftFlag, BitVec.getLsbD, Nat.toNat_testBit]
  omega

/-- Settles O41: both shift the operand SHIFT_SOURCE names, and the bit shifted out is bit 0 or bit 7. -/
theorem shiftsByOne : Obligations.ShiftsByOne := by
  intro x y s a ha
  obtain rfl : a = shiftOperand s x y := ha.trans (shiftOperand_eq s x y).symm
  exact ⟨retire_writeResultAndFlag s x (fun a => shiftOperand a x y >>> 1)
      (fun a => shiftRightFlag (shiftOperand a x y)) (shiftRight_one_toNat _) (shiftRightFlag_toNat _),
    retire_writeResultAndFlag s x (fun a => shiftOperand a x y <<< 1)
      (fun a => shiftLeftFlag (shiftOperand a x y)) (shiftLeft_one_toNat _) (shiftLeftFlag_toNat _)⟩

/-! ### The random byte (R132) -/

theorem and_and_not_self (a kk : Byte) : a &&& kk &&& ~~~kk = 0 := by
  rw [BitVec.and_assoc, BitVec.and_not_self]
  exact BitVec.and_zero

/-- Settles O42: one write of Vx, and the count of the bytes taken goes up. -/
theorem randomByteIsMasked : Obligations.RandomByteIsMasked := by
  intro x kk s
  have hx : (s.advance.setReg x (Config.rnd s.draws &&& kk)).reg x = Config.rnd s.draws &&& kk :=
    reg_setReg_self s.advance x _
  exact ⟨_, exec_of_completes ⟨nofun, nofun⟩, hx, (congrArg (· &&& ~~~kk) hx).trans (and_and_not_self _ kk), rfl,
    fun _ hr => reg_setReg_ne s.advance _ hr, kept_withRegs_tick rfl⟩

end Sys2Proof.Proofs
end

section
/-! # Address register and memory (spec/43_index_memory.md rules R54 and R150 to R155)

The execute phases of LD I, ADD I, LD F, LD B and LD [I] write I, or cells counted from I, and so share one frame
lemma. What remains for the stores is which cell holds what: the cells of one access are distinct, and they are those of
`cellsFromI`. -/

namespace Sys2Proof.Proofs

open Sys2Proof.Machine Sys2Proof.Laws

/-! ### Instructions that write only memory, I, PC and the timers -/

/-- Whatever cells are written and whatever I and PC become, all else is kept, and the timers tick. -/
theorem frame_withMem_tick {stored : Word → Prop} {s t : State} {mem : Memory} {i pc : Word}
    (h : t = State.tick { s with mem := mem, i := i, pc := pc }) (hmem : MemKept stored s t) :
    Frame noReg stored s t ∧ Ticked s t := by
  subst h
  exact ⟨⟨fun _ _ => rfl, hmem, ⟨rfl, fun _ _ => rfl⟩, ⟨rfl, fun _ _ _ _ => rfl⟩, ⟨fun _ => rfl, rfl, rfl⟩, rfl⟩,
    ticked_tick rfl rfl⟩

/-! ### Writes of the address register (R150 to R152) -/

/-- An instruction whose execute phase is one write of I leaves the masked value there and changes nothing else but PC
and the timers. -/
theorem retire_setI (s : State) (value : State → Word) {n : Nat} (h : (mask12 (value s.advance)).toNat = n) :
    ∃ t, retire (fun a => a.setI (value a)) s = .next t ∧ t.i.toNat = n ∧ Frame noReg noCell s t ∧ Ticked s t :=
  ⟨_, retire_next _ s, h, frame_withMem_tick rfl fun _ _ => rfl⟩

/-- Settles O43: each of the three is one write of I, and the write masks. -/
theorem addressRegisterWrites : Obligations.AddressRegisterWrites :=
  ⟨fun nnn s => retire_setI s (fun _ => addrOperand nnn) (addrOperand_toNat nnn),
    fun x s => retire_setI s (fun a => a.i + byteOffset (a.reg x)) (addOffset_toNat s.i (s.reg x)),
    fun x s => retire_setI s (fun a => glyphAddress (a.reg x)) (glyphAddress_toNat (s.reg x))⟩

/-! ### The cells of an access from I (R54) -/

theorem cellAddr_zero (base : Word) : cellAddr base 0 = base := BitVec.add_zero base

/-- The cells an access from I may touch are those its addresses name. -/
theorem cellsFromI_iff {s : State} {n : Nat} {a : Word} :
    cellsFromI s n a ↔ ∃ k < n, cellOf a = cellOf (cellAddr s.i k) := by
  simp only [cellsFromI, cellOf_cellAddr, cellOf_eq a]

theorem readByte_writeByte_self (s : State) (a : Word) (b : Byte) : (s.writeByte a b).readByte a = b := by
  rw [readByte_writeByte, if_pos rfl]

/-- A store to one cell of an access leaves the other cells of the access alone. -/
theorem readByte_writeByte_cellAddr_ne (s : State) (base : Word) (b : Byte) {j k : Nat} (hj : j < 4096) (hk : k < 4096)
    (h : j ≠ k) : (s.writeByte (cellAddr base k) b).readByte (cellAddr base j) = s.readByte (cellAddr base j) := by
  rw [readByte_writeByte, if_neg (cellOf_cellAddr_ne base hj hk h)]

/-- One more store to a cell of the access stores to no other cell. -/
theorem memKept_writeByte {s u : State} {n k : Nat} (hk : k < n) (b : Byte) (h : MemKept (cellsFromI s n) s u) :
    MemKept (cellsFromI s n) s (u.writeByte (cellAddr s.i k) b) := by
  intro a ha
  have hother : cellOf a ≠ cellOf (cellAddr s.i k) := fun heq => ha (cellsFromI_iff.2 ⟨k, hk, heq⟩)
  rw [readByte_writeByte, if_neg hother, h a ha]

/-! ### Decimal digits (R153) -/

theorem hundredsDigit_toNat (b : Byte) : (hundredsDigit b).toNat = b.toNat / 100 := by
  have hb := b.isLt
  rw [hundredsDigit, BitVec.toNat_ofNat]
  omega

theorem tensDigit_toNat (b : Byte) : (tensDigit b).toNat = b.toNat / 10 % 10 := by
  rw [tensDigit, BitVec.toNat_ofNat]
  omega

theorem onesDigit_toNat (b : Byte) : (onesDigit b).toNat = b.toNat % 10 := by
  rw [onesDigit, BitVec.toNat_ofNat]
  omega

/-- Three stores, to the three cells of one access, leave each byte in its cell. -/
theorem readByte_three_writes (s : State) (base : Word) (b₀ b₁ b₂ : Byte) {t : State}
    (h : t = ((s.writeByte (cellAddr base 0) b₀).writeByte (cellAddr base 1) b₁).writeByte (cellAddr base 2) b₂) :
    t.readByte (cellAddr base 0) = b₀ ∧ t.readByte (cellAddr base 1) = b₁ ∧ t.readByte (cellAddr base 2) = b₂ := by
  subst h
  refine ⟨?_, ?_, readByte_writeByte_self _ _ b₂⟩
  · rw [readByte_writeByte_cellAddr_ne _ base b₂ (by decide) (by decide) (by decide),
      readByte_writeByte_cellAddr_ne _ base b₁ (by decide) (by decide) (by decide), readByte_writeByte_self]
  · rw [readByte_writeByte_cellAddr_ne _ base b₂ (by decide) (by decide) (by decide), readByte_writeByte_self]

/-- Settles O44: the three cells are distinct, so each digit stays where it was stored. -/
theorem decimalDigitsAreStored : Obligations.DecimalDigitsAreStored := by
  intro x s
  obtain ⟨h₀, h₁, h₂⟩ := readByte_three_writes s.advance s.i (hundredsDigit (s.reg x)) (tensDigit (s.reg x))
    (onesDigit (s.reg x)) (t := bodyOf (.ldBVx x) s.advance) rfl
  rw [cellAddr_zero] at h₀
  have hmem : MemKept (cellsFromI s 3) s (bodyOf (.ldBVx x) s.advance) :=
    memKept_writeByte (by decide) _ (memKept_writeByte (by decide) _ (memKept_writeByte (by decide) _ fun _ _ => rfl))
  obtain ⟨hframe, hticked⟩ := frame_withMem_tick (s := s) (t := (bodyOf (.ldBVx x) s.advance).tick) rfl hmem
  exact ⟨_, exec_of_completes ⟨nofun, nofun⟩, (congrArg _ h₀).trans (hundredsDigit_toNat _),
    (congrArg _ h₁).trans (tensDigit_toNat _), (congrArg _ h₂).trans (onesDigit_toNat _), hframe, rfl, hticked⟩

/-! ### Block transfers (R154, R155) -/

/-- Settles O45: the loop stores register k to cell k of the access, and to no other cell. -/
theorem blockStore : Obligations.BlockStore := by
  intro x s
  have hstored (k : Nat) (hk : k ≤ x.toNat) :
      (s.advance.storeRegs (x.toNat + 1)).readByte (cellAddr s.i k) = s.reg (BitVec.ofNat 4 k) :=
    readByte_storeRegs s.advance _ x.isLt (Nat.lt_succ_of_le hk)
  have hmem : MemKept (cellsFromI s (x.toNat + 1)) s (s.advance.storeRegs (x.toNat + 1)) := fun _ ha =>
    readByte_storeRegs_other s.advance _ fun k hk heq => ha (cellsFromI_iff.2 ⟨k, hk, heq⟩)
  obtain ⟨m, hm⟩ := storeRegs_eq s.advance (x.toNat + 1)
  obtain ⟨hframe, hticked⟩ := frame_withMem_tick (congrArg State.tick hm) hmem
  exact ⟨_, exec_of_completes ⟨nofun, nofun⟩, hstored, hframe, storeRegs_i s.advance _, hticked⟩

/-- Settles O46: the loop loads register r from cell r of the access, and the registers above x are not reached. -/
theorem blockLoad : Obligations.BlockLoad := by
  intro x s
  have hreg (r : Reg) : (s.advance.loadRegs (x.toNat + 1)).reg r =
      if r.toNat < x.toNat + 1 then s.readByte (cellAddr s.i r.toNat) else s.reg r :=
    reg_loadRegs s.advance _ x.isLt r
  obtain ⟨v, hv⟩ := loadRegs_eq s.advance (x.toNat + 1)
  exact ⟨_, exec_of_completes ⟨nofun, nofun⟩, fun r hr => (hreg r).trans (if_pos (Nat.lt_succ_of_le hr)),
    onlyRegs_withRegs_tick (congrArg State.tick hv) fun r hr => (hreg r).trans (if_neg (mt Nat.le_of_lt_succ hr))⟩

/-- Settles O47: a register up to x is loaded from the cell it was stored to; the others neither instruction writes. -/
theorem loadAfterStoreRestores : Obligations.LoadAfterStoreRestores := by
  intro x s
  obtain ⟨t, hstore, hcells, ⟨htregs, -⟩, hti, -⟩ := blockStore x s
  obtain ⟨u, hload, hloaded, ⟨huregs, -⟩, hui, -⟩ := blockLoad x t
  refine ⟨t, u, hstore, hload, fun r => ?_, hui.trans hti⟩
  have htr : t.reg r = s.reg r := htregs r not_false
  by_cases hr : r.toNat ≤ x.toNat
  · rw [hloaded r hr, hti, hcells r.toNat hr, BitVec.ofNat_toNat, BitVec.setWidth_eq]
  · exact (huregs r hr).trans htr

end Sys2Proof.Proofs
end

section
/-! # Display (spec/44_display.md rules R170, R171 and R173)

CLS and DRW write the screen, and DRW writes VF, so both share one frame lemma. What the loops of DRW do to a pixel, to
the collision flag and to DIRTY is known of the pixels a sprite hits, and those are the pixels it covers. A draw writes
neither memory nor I, so a second draw from the same origin covers the same pixels and turns each of them over again. -/

namespace Sys2Proof.Proofs

open Sys2Proof.Machine Sys2Proof.Laws

/-! ### Instructions that write only the screen, general registers, PC and the timers -/

/-- Whatever is drawn, whatever general registers are written and wherever PC goes, all else is kept, and the timers
tick. -/
theorem kept_withScreen_tick {s t : State} {v : Vector Byte 16} {fb : Framebuffer} {dirty : Bool} {pc : Word}
    (h : t = State.tick { s with v := v, fb := fb, dirty := dirty, pc := pc }) :
    MemKept noCell s t ∧ CallsKept s t ∧ LatchesKept s t ∧ t.draws = s.draws ∧ t.i = s.i ∧ Ticked s t := by
  subst h
  exact ⟨fun _ _ => rfl, ⟨rfl, fun _ _ => rfl⟩, ⟨fun _ => rfl, rfl, rfl⟩, rfl, rfl, ticked_tick rfl rfl⟩

/-! ### CLS (R170) -/

/-- Settles O48: CLS writes the blank framebuffer over whatever was there. -/
theorem clearScreen : Obligations.ClearScreen :=
  fun _ => ⟨_, exec_of_completes ⟨nofun, nofun⟩, fun col _ row _ => pixel_blank col row, rfl, fun _ _ => rfl,
    kept_withScreen_tick rfl⟩

/-! ### The pixels a sprite covers (R171) -/

theorem spriteHits_iff_spriteCovers {s : State} {x0 y0 : Byte} {n col row : Nat} :
    SpriteHits s x0 y0 n col row ↔ SpriteCovers s x0 y0 n col row := by
  constructor
  · rintro ⟨k, hk, hrow, j, hj, hbit, hcol⟩
    exact ⟨k, hk, j, hj, hbit, hcol, hrow⟩
  · rintro ⟨k, hk, j, hj, hbit, hcol, hrow⟩
    exact ⟨k, hk, hrow, j, hj, hbit, hcol⟩

/-- Both coordinates wrap, so a covered pixel is on the screen. -/
theorem spriteCovers_lt {s : State} {x0 y0 : Byte} {n col row : Nat} (h : SpriteCovers s x0 y0 n col row) :
    col < 64 ∧ row < 32 := by
  obtain ⟨k, -, j, -, -, rfl, rfl⟩ := h
  exact ⟨spriteCol_lt x0 j, spriteRow_lt y0 k⟩

/-- The sprite is read from I, so the same memory and I give the same sprite. -/
theorem spriteCovers_eq_of_kept {s t : State} (hmem : MemKept noCell s t) (hi : t.i = s.i) :
    SpriteCovers t = SpriteCovers s := by
  funext x0 y0 n col row
  simp only [SpriteCovers, hi, fun a => hmem a not_false]

/-! ### One draw (R171) -/

section

variable (s : State) (x0 y0 : Byte) (n : Nibble)

theorem pixel_drawRows_ne_iff (col row : Nat) :
    Framebuffer.pixel (drawRows s x0 y0 n.toNat).fb col row ≠ s.pixel col row ↔
      SpriteCovers s x0 y0 n.toNat col row := by
  obtain ⟨hturned, hkept⟩ := pixel_drawRows s x0 y0 col row (Nat.le_of_lt_succ n.isLt)
  rw [← spriteHits_iff_spriteCovers]
  constructor
  · exact fun hne => not_not.1 fun hmiss => hne (hkept hmiss)
  · intro hhit
    rw [hturned hhit]
    exact Bool.not_ne_self _

theorem drawRows_collision_iff :
    (drawRows s x0 y0 n.toNat).collision = true ↔
      ∃ col row, SpriteCovers s x0 y0 n.toNat col row ∧ s.pixel col row = true := by
  simp only [collision_drawRows s x0 y0 (Nat.le_of_lt_succ n.isLt), spriteHits_iff_spriteCovers]

theorem drawRows_touched_iff :
    (drawRows s x0 y0 n.toNat).touched = true ↔ ∃ col row, SpriteCovers s x0 y0 n.toNat col row := by
  simp only [touched_drawRows, spriteHits_iff_spriteCovers]

end

theorem pixel_commitDraw (s : State) (c : Canvas) (col row : Nat) :
    (s.commitDraw c).pixel col row = Framebuffer.pixel c.fb col row := by
  rw [State.pixel, commitDraw_fb]

/-- DRW commits what its loops do from the origin read before VF is written (decision D21), and a tick follows. -/
theorem exec_drw (x y : Reg) (n : Nibble) (s : State) :
    exec (.drw x y n) s =
      .next (s.advance.commitDraw (drawRows s.advance (s.reg x) (s.reg y) n.toNat)).tick :=
  exec_of_completes ⟨nofun, nofun⟩

/-- Settles O49: the pixels the loops turn over, collide with and touch are the covered ones. -/
theorem drawXorsTheSprite : Obligations.DrawXorsTheSprite := by
  intro x y n s
  have hpixel := pixel_drawRows_ne_iff s.advance (s.reg x) (s.reg y) n
  have hcollision := drawRows_collision_iff s.advance (s.reg x) (s.reg y) n
  have htouched := drawRows_touched_iff s.advance (s.reg x) (s.reg y) n
  have hexec := exec_drw x y n s
  generalize drawRows s.advance (s.reg x) (s.reg y) n.toNat = c at *
  have hvf : (s.advance.commitDraw c).reg vf = flagByte c.collision := (reg_commitDraw _ c vf).trans (if_pos rfl)
  refine ⟨_, hexec, fun col _ row _ => ?_, fun hon => ?_, fun hoff => ?_, ?_, fun r hr => ?_,
    kept_withScreen_tick (congrArg State.tick (commitDraw_eq s.advance c))⟩
  · rw [pixel_tick, pixel_commitDraw]
    exact hpixel col row
  · exact hvf.trans (congrArg flagByte (hcollision.2 hon))
  · exact hvf.trans (congrArg flagByte (Bool.eq_false_iff.2 fun h => hoff (hcollision.1 h)))
  · rw [tick_dirty, commitDraw_dirty, Bool.or_eq_true]
    exact or_congr Iff.rfl htouched
  · exact (reg_commitDraw s.advance c r).trans (if_neg hr)

/-! ### The same draw again (R173) -/

/-- Two steps that both change a Boolean, or both keep it, come back to it. -/
theorem eq_of_ne_iff_ne {a b c : Bool} (h : a ≠ b ↔ b ≠ c) : a = c := by
  revert a b c
  decide

/-- Settles O50: both draws turn over the same pixels, and a pixel off before the first is on before the second. -/
theorem drawingTwiceRestoresTheScreen : Obligations.DrawingTwiceRestoresTheScreen := by
  intro x y n s t hfirst hx hy
  obtain ⟨t', hfirst', hpixel, hflag, -, -, -, hmem, -, -, -, hi, -⟩ := drawXorsTheSprite x y n s
  obtain rfl : t' = t := by injection hfirst'.symm.trans hfirst
  obtain ⟨u, hsecond, hpixel', hflag', -⟩ := drawXorsTheSprite x y n t'
  rw [hx, hy, spriteCovers_eq_of_kept hmem hi] at hpixel' hflag'
  have second_collides {col row : Nat} (hcovers : SpriteCovers s (s.reg x) (s.reg y) n.toNat col row)
      (hoff : s.pixel col row = false) : u.reg 0xF#4 = 1 := by
    obtain ⟨hcol, hrow⟩ := spriteCovers_lt hcovers
    have hne := (hpixel col hcol row hrow).2 hcovers
    rw [hoff] at hne
    exact hflag' ⟨col, row, hcovers, Bool.eq_true_of_not_eq_false hne⟩
  refine ⟨u, hsecond, fun col hcol row hrow => ?_, ?_⟩
  · have hturned := (hpixel' col hcol row hrow).trans (hpixel col hcol row hrow).symm
    exact eq_of_ne_iff_ne hturned
  · rintro ⟨col, row, hcovers⟩
    refine ⟨?_, fun hoff => second_collides hcovers (hoff col row hcovers)⟩
    cases hs : s.pixel col row with
    | true => exact .inl (hflag ⟨col, row, hcovers, hs⟩)
    | false => exact .inr (second_collides hcovers hs)

end Sys2Proof.Proofs
end

section
/-! # Keypad and timers (spec/45_keypad_timers.md rules R180 to R185; spec/10_state.md rule R19)

SKP and SKNP are skips, and LD Vx,DT is one write of Vx. The key wait is one of two things: a rollback of PC, or a write
of Vx. A step that writes a timer is a step that only ticks, from the state in which the timer already has its new
value. -/

namespace Sys2Proof.Proofs

open Sys2Proof.Machine Sys2Proof.Laws

/-! ### Key skips (R180, R181) -/

theorem lowNibble_toNat (b : Byte) : (lowNibble b).toNat = b.toNat % 16 :=
  BitVec.extractLsb'_toNat 0 4 b

/-- Settles O51: each key skip is a skip on the level of the key that the low nibble of Vx names. -/
theorem keySkips : Obligations.KeySkips := by
  intro x s k hk
  obtain rfl : k = lowNibble (s.reg x) := BitVec.eq_of_toNat_eq (hk.trans (lowNibble_toNat _).symm)
  exact ⟨retire_skipIf s (fun a => a.key (lowNibble (a.reg x))) Iff.rfl,
    retire_skipIf s (fun a => !a.key (lowNibble (a.reg x))) (Bool.not_eq_true' _).to_iff⟩

/-! ### The key wait (R182) -/

/-- With no key pressed the cycle of the key wait is a rollback of PC and a tick. -/
theorem exec_ldVxK_of_none (x : Reg) {s : State} (h : ∀ k, s.key k = false) :
    exec (.ldVxK x) s = .next (s.advance.setPc (s.advance.pc - 2)).tick := by
  rw [← keyWait_of_none s.advance x h]
  exact exec_of_completes ⟨nofun, nofun⟩

/-- With a key pressed the cycle of the key wait is the default advance, one write of Vx and a tick. -/
theorem exec_ldVxK_of_pressed (x : Reg) {s : State} {k : BitVec 4} (hk : s.key k = true)
    (hleast : ∀ j, j.toNat < k.toNat → s.key j = false) :
    exec (.ldVxK x) s = .next (s.advance.setReg x (k.setWidth 8)).tick := by
  rw [← keyWait_of_pressed s.advance x hk hleast]
  exact exec_of_completes ⟨nofun, nofun⟩

/-- Settles O52: the rollback undoes the default advance, and the key written to Vx is the least pressed one. -/
theorem keyWait : Obligations.KeyWait := by
  intro x s
  refine ⟨fun hnone => ?_, fun k hk hleast => ?_⟩
  · exact ⟨_, exec_ldVxK_of_none x hnone, rollback_pc_toNat s, quiet_withPc_tick s _⟩
  · have hx : (s.advance.setReg x (k.setWidth 8)).reg x = k.setWidth 8 := reg_setReg_self s.advance x _
    exact ⟨_, exec_ldVxK_of_pressed x hk hleast,
      (congrArg BitVec.toNat hx).trans (BitVec.toNat_setWidth_of_le (by decide)), advance_pc_toNat s,
      onlyRegs_withRegs_tick rfl fun _ hr => reg_setReg_ne s.advance _ hr⟩

/-! ### Timers and tone (R19, R183 to R185) -/

theorem readTone_eq_true (s : State) : s.readTone = true ↔ 0 < s.st.toNat := decide_eq_true_iff

/-- An instruction whose execute phase is one write of DT changes what a tick changes, once DT is written. -/
theorem retire_setDt (s : State) (value : State → Byte) :
    ∃ t, retire (fun a => a.setDt (value a)) s = .next t ∧ Quiet (s.setDt (value s.advance)) t :=
  ⟨_, retire_next _ s, quiet_withPc_tick (s.setDt (value s.advance)) _⟩

/-- An instruction whose execute phase is one write of ST changes what a tick changes, once ST is written. -/
theorem retire_setSt (s : State) (value : State → Byte) :
    ∃ t, retire (fun a => a.setSt (value a)) s = .next t ∧ Quiet (s.setSt (value s.advance)) t :=
  ⟨_, retire_next _ s, quiet_withPc_tick (s.setSt (value s.advance)) _⟩

/-- Settles O53: a timer is read before the tick and written before it, and the tone is on after LD ST exactly when the
tick leaves ST positive. -/
theorem timerReadsAndWrites : Obligations.TimerReadsAndWrites := by
  intro x s
  obtain ⟨t, hdtexec, hdtframe, hdti, hdt, hdtst⟩ := retire_setDt s fun a => a.reg x
  obtain ⟨u, hstexec, hstframe, hsti, hstdt, hst⟩ := retire_setSt s fun a => a.reg x
  have htone : u.readTone = true ↔ 1 < (s.reg x).toNat :=
    calc u.readTone = true
      _ ↔ 0 < u.st.toNat := readTone_eq_true u
      _ ↔ 0 < (s.reg x).toNat - 1 := by rw [hst]; rfl
      _ ↔ 1 < (s.reg x).toNat := Nat.sub_pos_iff_lt
  exact ⟨retire_setReg s x fun a => a.dt, ⟨t, hdtexec, hdt, hdtst, hdtframe, hdti⟩,
    ⟨u, hstexec, hst, hstdt, htone, hstframe, hsti⟩, readTone_eq_true s⟩

end Sys2Proof.Proofs
end

section
/-! # Faults and the host's operations (spec/60_exceptions.md rules R200 to R214)

No execute phase writes the latch, so an instruction that completes keeps it, and only a fault can change it. Of the
host's operations SetKey and AckRender are one write each, and the reads answer fields of the state; ReadFB lists the
pixels row by row. -/

namespace Sys2Proof.Proofs

open Sys2Proof.Machine Sys2Proof.Laws

/-! ### The fault latch (R200, R205) -/

/-- The latch is taken by `takeFault` alone, so no execute phase writes it. -/
theorem bodyOf_fault (i : Instr) (a : State) : (bodyOf i a).fault = a.fault := by
  cases i
  all_goals simp [bodyOf]

theorem exec_fault_of_completes {i : Instr} {s t : State} (hi : Completes i s) (h : exec i s = .next t) :
    t.fault = s.fault := by
  obtain rfl := Host.Outcome.next.inj ((exec_of_completes hi).symm.trans h)
  rw [tick_fault, bodyOf_fault, advance_fault]

/-- Settles O13: an instruction that completes keeps the latch, so one that changes it has faulted. -/
theorem onlyStackFaultsSetTheLatch : Obligations.OnlyStackFaultsSetTheLatch := by
  intro i s t h hne
  obtain hi | ⟨f, hf⟩ := completes_or_faults i s
  · exact absurd (exec_fault_of_completes hi h) hne
  · obtain rfl := Host.Outcome.next.inj ((exec_of_faults hf).symm.trans h)
    exact ⟨f, hf, rfl⟩

/-! ### The host's operations (R210) -/

theorem readFb_length (s : State) : s.readFb.length = 2048 := length_rows (fun row col => s.pixel col row) 64 32

/-- ReadFB is row-major (R20). -/
theorem readFb_getElem? (s : State) {col row : Nat} (hcol : col < 64) (hrow : row < 32) :
    s.readFb[row * 64 + col]? = some (s.pixel col row) :=
  getElem?_rows (fun row col => s.pixel col row) hcol hrow

theorem readFault_of_none {s : State} (h : s.fault = none) : s.readFault = none := by
  rw [State.readFault, h, Option.map_none]

theorem readFault_of_some {s : State} {r : FaultRecord} (h : s.fault = some r) :
    s.readFault = some (faultCode r.code, r.pc) := by
  rw [State.readFault, h, Option.map_some]

/-- Settles O27: each operation is one write, to a key or to DIRTY, and each read is one of a field. -/
theorem hostOperationsTouchTheirOwnPart : Obligations.HostOperationsTouchTheirOwnPart := by
  refine ⟨fun s k pressed => ?setKey, fun s => ?ackRender, fun s => ?readFb, fun s => ?flags, fun s => ?readFault⟩
  case setKey =>
    exact ⟨s.setKey k pressed, rfl, (key_setKey s k k pressed).trans (if_pos rfl),
      fun j hj => (key_setKey s k j pressed).trans (if_neg hj), rfl⟩
  case ackRender => exact ⟨s.setDirty false, rfl, rfl, rfl⟩
  case readFb => exact ⟨readFb_length s, fun col hcol row hrow => readFb_getElem? s hcol hrow⟩
  case flags => exact ⟨rfl, readTone_eq_true s⟩
  case readFault => exact ⟨readFault_of_none, fun _ h => readFault_of_some h, fun _ h => readFault_of_some h⟩

end Sys2Proof.Proofs
end

section
/-! # Images that do not fit (spec/70_reset_and_hazards.md rule R232)

A load that answers a state has checked the length of its image (`load_cases`), so an oversized image is answered by
none. -/

namespace Sys2Proof.Proofs

open Sys2Proof.Machine Sys2Proof.Laws

theorem load_eq_none_of_oversized {image : List Byte} (s : State) (hlen : progMax < image.length) :
    s.load image = none := by
  refine Option.eq_none_iff_forall_ne_some.2 fun t hload => ?_
  obtain ⟨hfits, -⟩ := load_cases hload
  exact Nat.not_le_of_gt hlen hfits

/-- Settles O26: the operation Reset is `load`, which refuses the image in every state. -/
theorem oversizedImageIsRefused : Obligations.OversizedImageIsRefused :=
  fun s _ hlen => load_eq_none_of_oversized s hlen

end Sys2Proof.Proofs
end
